-- ==== Sys2Proof/Word.lean ====
section
/-! DEFINITION. The plainest values of the block: words, bytes, times, pin levels, edges, colours. -/

namespace Sys2Proof

/-- A command word (R80): 64 bits, with no byte view (R64). -/
abbrev Word := BitVec 64

/-- One byte of the serial buffer (R63), or one colour channel (R38). -/
abbrev Byte := BitVec 8

/-- A stored `millis` value (R14, R21): a count of ticks since reset, 32 bits, unsigned. -/
abbrev Time := BitVec 32

/-- A step intensity (00_scope.md glossary, R8): an integer in 0..15. -/
abbrev Intensity := Fin 16

/-- The level of a digital pin (R15). -/
inductive Level where
  | low
  | high
  deriving DecidableEq, Repr, Inhabited

/-- TriggerEdge (R36). -/
inductive Edge where
  | unchanged
  | rise
  | fall
  deriving DecidableEq, Repr, Inhabited

/-- A colour (R38): 0..255 per channel. -/
structure Color where
  r : Byte
  g : Byte
  b : Byte
  deriving DecidableEq, Repr, Inhabited

/-- A frame (R28): one colour per physical LED, entry 0 the first LED on the strip. -/
abbrev Frame := List Color

end Sys2Proof
end

