-- ==== Sys2Proof/Syntax.lean ====
section
/-! DEFINITION. The commands of TSB-1: one constructor per row of the opcode table (R87). -/

namespace Sys2Proof

/-- The guard every command carries (R86): no suffix, `?CHG`, `?RISE`. -/
inductive Guard where
  | always
  | chg
  | rise
  deriving DecidableEq, Repr, Inhabited

/-- A task kind (R37): `TrigLow` is the only one that can be stored. -/
inductive TaskKind where
  | trigLow
  deriving DecidableEq, Repr, Inhabited

/-- The role of a colour (R84, R172): `Default`, `CurMatch`, `CurUnmatch`. -/
inductive Role where
  | default
  | curMatch
  | curUnmatch
  deriving DecidableEq, Repr, Inhabited

/-- A command with its guard and its operands (R81 to R84, R88). -/
inductive Instr where
  | now (g : Guard)
  | sched (g : Guard) (kind : TaskKind) (fireAt : Time)
  | poll (g : Guard)
  | clkchk (g : Guard)
  | clkrst (g : Guard)
  | trig (g : Guard)
  | seqchk (g : Guard)
  | chgind (g : Guard)
  | cmap (g : Guard) (p : Bool) (i : BitVec 4) (role : Role)
  | render (g : Guard)
  | renderx (g : Guard) (cur : BitVec 3) (m : Bool)
  | write (g : Guard)
  | stepout (g : Guard)
  | halt (g : Guard)
  deriving DecidableEq, Repr

/-- The guard of a command (R80: the field `g` is in every format). -/
def Instr.guard : Instr → Guard
  | .now g | .sched g _ _ | .poll g | .clkchk g | .clkrst g | .trig g | .seqchk g
  | .chgind g | .cmap g _ _ _ | .render g | .renderx g _ _ | .write g | .stepout g
  | .halt g => g

end Sys2Proof
end

