-- ==== Sys2Proof/WellFormed.lean ====
section
/-! DEFINITION. Which terms of `Instr` are commands of the block. Every operand field is a type of its own, so one check is left (R93). -/

namespace Sys2Proof

/-- A command whose operands are legal: CMAP with `p = 0` needs `i = 0` (R85 step 5, R93). The other
operand checks of R85 (guard, task kind, role) are the types `Guard`, `TaskKind` and `Role`. -/
abbrev Instr.WellFormed (ins : Instr) : Prop :=
  match ins with
  | .cmap _ p i _ => p = true ∨ i = 0
  | _ => True

end Sys2Proof
end

