-- ==== Sys2Proof/Decode.lean ====
section
/-! DEFINITION. TSB-1: decoding (R85), total on any word and rejecting by name, then the encoder and the printed form (R97). -/

namespace Sys2Proof

/-- Why a word is `Illegal` (R85, R90 to R93). Each makes the fetch raise `IllegalCommand` (R251). -/
inductive DecodeError where
  /-- `z` is not zero (R91). -/
  | reservedZ
  /-- `g = 3` (R92). -/
  | reservedGuard
  /-- `op` is in no row of R87 (R90). -/
  | reservedOpcode
  /-- A must-be-zero field of the format is not zero (R91). -/
  | mustBeZero
  /-- SCHED with `k` other than 1 (R93). -/
  | reservedKind
  /-- CMAP with `role = 3` (R93). -/
  | reservedRole
  /-- CMAP with `p = 0` and `i` not zero (R93). -/
  | unsetIntensity
  deriving DecidableEq, Repr

/-- The opcodes, in the order of R87. -/
inductive Opcode where
  | now | sched | poll | clkchk | clkrst | trig | seqchk | chgind | cmap | render | renderx
  | write | stepout | halt
  deriving DecidableEq, Repr

/-- The `op` field of each command (R87). -/
def Opcode.bits : Opcode → BitVec 8
  | .now => 0x01
  | .sched => 0x10
  | .poll => 0x11
  | .clkchk => 0x20
  | .clkrst => 0x21
  | .trig => 0x30
  | .seqchk => 0x40
  | .chgind => 0x41
  | .cmap => 0x50
  | .render => 0x60
  | .renderx => 0x61
  | .write => 0x62
  | .stepout => 0x70
  | .halt => 0x7F

/-- Every row of R87. -/
def Opcode.all : List Opcode :=
  [.now, .sched, .poll, .clkchk, .clkrst, .trig, .seqchk, .chgind, .cmap, .render, .renderx,
    .write, .stepout, .halt]

/-- Looking `op` up in R87 (R85 step 3). -/
def Opcode.ofBits (b : BitVec 8) : Option Opcode := Opcode.all.find? (·.bits = b)

/-- The `g` field of a guard (R86). -/
def Guard.bits : Guard → BitVec 2
  | .always => 0
  | .chg => 1
  | .rise => 2

/-- Reading the `g` field; 3 is reserved (R92). -/
def Guard.ofBits (b : BitVec 2) : Option Guard :=
  [Guard.always, .chg, .rise].find? (·.bits = b)

/-- The code of a task kind (R37), 4 bits. -/
def TaskKind.code : TaskKind → BitVec 4
  | .trigLow => 1

/-- Reading a task kind; 0 and 2..15 are reserved (R37, R93). -/
def TaskKind.ofCode (b : BitVec 4) : Option TaskKind :=
  [TaskKind.trigLow].find? (·.code = b)

/-- The `role` field (R84). -/
def Role.bits : Role → BitVec 2
  | .default => 0
  | .curMatch => 1
  | .curUnmatch => 2

/-- Reading the `role` field; 3 is reserved (R84, R93). -/
def Role.ofBits (b : BitVec 2) : Option Role :=
  [Role.default, .curMatch, .curUnmatch].find? (·.bits = b)

/-! ### The fields of a word (R80) -/

def opField (w : Word) : BitVec 8 := w.extractLsb' 56 8

def guardField (w : Word) : BitVec 2 := w.extractLsb' 54 2

def zField (w : Word) : BitVec 2 := w.extractLsb' 52 2

def kField (w : Word) : BitVec 4 := w.extractLsb' 48 4

def aField (w : Word) : BitVec 16 := w.extractLsb' 32 16

def immField (w : Word) : BitVec 32 := w.extractLsb' 0 32

/-! ### Decoding, steps 4 to 6 of R85 -/

/-- Format Z (R81): `k`, `a` and `imm` are zero. -/
def decodeZ (k : BitVec 4) (a : BitVec 16) (imm : BitVec 32) (i : Instr) :
    Except DecodeError Instr :=
  if k = 0 ∧ a = 0 ∧ imm = 0 then .ok i else .error .mustBeZero

/-- Format T (R82): `k` is the task kind, `a` is zero, `imm` is the time. -/
def decodeT (g : Guard) (k : BitVec 4) (a : BitVec 16) (imm : BitVec 32) :
    Except DecodeError Instr :=
  if a = 0 then
    match TaskKind.ofCode k with
    | some kind => .ok (.sched g kind imm)
    | none => .error .reservedKind
  else .error .mustBeZero

/-- Format R (R83): `a[2:0]` is `cur`, `a[3]` is `m`, the rest is zero. -/
def decodeR (g : Guard) (k : BitVec 4) (a : BitVec 16) (imm : BitVec 32) :
    Except DecodeError Instr :=
  if k = 0 ∧ a.extractLsb' 4 12 = 0 ∧ imm = 0 then
    .ok (.renderx g (a.extractLsb' 0 3) (a.getLsbD 3))
  else .error .mustBeZero

/-- Format C (R84): `k[1:0]` is `role`, `a[3:0]` is `i`, `a[4]` is `p`, the rest is zero; `p = 0`
needs `i = 0` (R93). -/
def decodeC (g : Guard) (k : BitVec 4) (a : BitVec 16) (imm : BitVec 32) :
    Except DecodeError Instr :=
  if k.extractLsb' 2 2 = 0 ∧ a.extractLsb' 5 11 = 0 ∧ imm = 0 then
    match Role.ofBits (k.extractLsb' 0 2) with
    | some role =>
      if a.getLsbD 4 = true ∨ a.extractLsb' 0 4 = 0 then
        .ok (.cmap g (a.getLsbD 4) (a.extractLsb' 0 4) role)
      else .error .unsetIntensity
    | none => .error .reservedRole
  else .error .mustBeZero

/-- The operand fields of a word whose opcode and guard are known. -/
def decodeOperands (o : Opcode) (g : Guard) (k : BitVec 4) (a : BitVec 16) (imm : BitVec 32) :
    Except DecodeError Instr :=
  match o with
  | .now => decodeZ k a imm (.now g)
  | .sched => decodeT g k a imm
  | .poll => decodeZ k a imm (.poll g)
  | .clkchk => decodeZ k a imm (.clkchk g)
  | .clkrst => decodeZ k a imm (.clkrst g)
  | .trig => decodeZ k a imm (.trig g)
  | .seqchk => decodeZ k a imm (.seqchk g)
  | .chgind => decodeZ k a imm (.chgind g)
  | .cmap => decodeC g k a imm
  | .render => decodeZ k a imm (.render g)
  | .renderx => decodeR g k a imm
  | .write => decodeZ k a imm (.write g)
  | .stepout => decodeZ k a imm (.stepout g)
  | .halt => decodeZ k a imm (.halt g)

/-- Decoding (R85): the six steps in the rule's order; it reads no state. -/
def decode (w : Word) : Except DecodeError Instr :=
  if zField w = 0 then
    match Guard.ofBits (guardField w) with
    | none => .error .reservedGuard
    | some g =>
      match Opcode.ofBits (opField w) with
      | none => .error .reservedOpcode
      | some o => decodeOperands o g (kField w) (aField w) (immField w)
  else .error .reservedZ

/-- The instruction the decoder reads from the first `nbits` bits `w`, the rest zero. A command is one
64-bit word and has no bytes (R64, R80), so the table's bit numbers are the word's own. -/
def decodeTableWord (nbits w : Nat) : Option Instr :=
  match decode (BitVec.ofNat 64 (w % 2 ^ nbits)) with
  | .ok i => some i
  | .error _ => none

/-! ### Encoding -/

/-- A word from its fields, `z` zero (R80). -/
def packWord (o : Opcode) (g : Guard) (k : BitVec 4) (a : BitVec 16) (imm : BitVec 32) : Word :=
  o.bits ++ g.bits ++ (0 : BitVec 2) ++ k ++ a ++ imm

/-- A word of format Z (R81). -/
def packZ (o : Opcode) (g : Guard) : Word := packWord o g 0 0 0

/-- The word of a command (R80 to R84, R87). -/
def encode : Instr → Word
  | .now g => packZ .now g
  | .sched g kind fireAt => packWord .sched g kind.code 0 fireAt
  | .poll g => packZ .poll g
  | .clkchk g => packZ .clkchk g
  | .clkrst g => packZ .clkrst g
  | .trig g => packZ .trig g
  | .seqchk g => packZ .seqchk g
  | .chgind g => packZ .chgind g
  | .cmap g p i role =>
    packWord .cmap g ((0 : BitVec 2) ++ role.bits) ((0 : BitVec 11) ++ BitVec.ofBool p ++ i) 0
  | .render g => packZ .render g
  | .renderx g cur m => packWord .renderx g 0 ((0 : BitVec 12) ++ BitVec.ofBool m ++ cur) 0
  | .write g => packZ .write g
  | .stepout g => packZ .stepout g
  | .halt g => packZ .halt g

/-! ### The table's masks, the printed form, the pseudo-instructions -/

/-- The opcode of a command (R87). -/
def Instr.opcode : Instr → Opcode
  | .now _ => .now
  | .sched .. => .sched
  | .poll _ => .poll
  | .clkchk _ => .clkchk
  | .clkrst _ => .clkrst
  | .trig _ => .trig
  | .seqchk _ => .seqchk
  | .chgind _ => .chgind
  | .cmap .. => .cmap
  | .render _ => .render
  | .renderx .. => .renderx
  | .write _ => .write
  | .stepout _ => .stepout
  | .halt _ => .halt

/-- The mask of a row (R81 to R84): the bits its format fixes, but for the guard and the operands. -/
def Opcode.mask : Opcode → Word
  | .sched => 0xFF30FFFF00000000
  | .renderx => 0xFF3FFFF0FFFFFFFF
  | .cmap => 0xFF3CFFE0FFFFFFFF
  | _ => 0xFF3FFFFFFFFFFFFF

/-- The match of a row (R81 to R84): `op << 56`. -/
def Opcode.pattern (o : Opcode) : Word := (o.bits.setWidth 64) <<< 56

/-- The mnemonic of a command (R87). -/
def Opcode.mnemonic : Opcode → String
  | .now => "NOW"
  | .sched => "SCHED"
  | .poll => "POLL"
  | .clkchk => "CLKCHK"
  | .clkrst => "CLKRST"
  | .trig => "TRIG"
  | .seqchk => "SEQCHK"
  | .chgind => "CHGIND"
  | .cmap => "CMAP"
  | .render => "RENDER"
  | .renderx => "RENDERX"
  | .write => "WRITE"
  | .stepout => "STEPOUT"
  | .halt => "HALT"

/-- The guard suffix (R97): no suffix means `always`. -/
def Guard.suffix : Guard → String
  | .always => ""
  | .chg => " ?CHG"
  | .rise => " ?RISE"

/-- The name of a role in the assembler (R97). -/
def Role.name : Role → String
  | .default => "def"
  | .curMatch => "curm"
  | .curUnmatch => "curu"

/-- The operands of a command as the assembler writes them (R97). -/
def Instr.operandText : Instr → String
  | .sched _ .trigLow fireAt => " TrigLow, " ++ toString fireAt.toNat
  | .renderx _ cur m => " " ++ toString cur.toNat ++ ", " ++ toString m.toNat
  | .cmap _ p i role => " " ++ toString p.toNat ++ ", " ++ toString i.toNat ++ ", " ++ role.name
  | _ => ""

/-- A command in assembler syntax (R97). -/
def Instr.text (i : Instr) : String :=
  i.opcode.mnemonic ++ i.guard.suffix ++ i.operandText

/-- The pseudo-instruction APPLY (R98, R222): three commands under one guard. -/
def pseudoApply (g : Guard) : List Instr := [.stepout g, .render g, .write g]

/-- The pseudo-instruction ITER (R98, R226): the eleven commands of the canonical loop. -/
def pseudoIter : List Instr :=
  [.seqchk .always, .clkrst .chg, .chgind .always, .render .chg, .write .chg, .clkchk .always,
    .trig .always, .poll .always] ++ pseudoApply .rise

end Sys2Proof
end

