-- ==== Sys2Proof/Config.lean ====
section
/-! DEFINITION. What one instance of the block fixes (R7), when it is well formed (R8), and the free values of the environment (R49). -/

namespace Sys2Proof

/-- A sequence (R8, R61): `length` in 1..8 and 8 slots, each absent or an intensity. -/
structure Sequence where
  length : Nat
  slots : List (Option Intensity)
  deriving DecidableEq, Repr, Inhabited

/-- The clock source variant (R7 `CLK_VARIANT`). -/
inductive ClkVariant where
  | internal
  | external
  deriving DecidableEq, Repr, Inhabited

/-- The trigger timing policy (R7 `POLICY`, R156: fixed per machine). -/
inductive Policy where
  | follow
  | hold
  | pulse
  deriving DecidableEq, Repr, Inhabited

/-- One of the three channels of a colour. -/
inductive Channel where
  | red
  | green
  | blue
  deriving DecidableEq, Repr, Inhabited

/-- `COLOR_ORDER` (R7): a permutation of R, G, B, named by the order on the wire. -/
inductive ColorOrder where
  | rgb
  | rbg
  | grb
  | gbr
  | brg
  | bgr
  deriving DecidableEq, Repr, Inhabited

/-- The order in which the bits of one byte go (R67 c, d): a parameter of the serializer (U3, D17). -/
inductive BitOrder where
  | msbFirst
  | lsbFirst
  deriving DecidableEq, Repr, Inhabited

/-- The configuration record (R7, and the two bit orders of R67 c, d). `TICK_PERIOD` and `BUS_RATE` are read by no rule and left out (R6). -/
structure Config where
  table : List Sequence
  clkVariant : ClkVariant
  interval : Nat
  holdTime : Nat
  policy : Policy
  delayTime : Nat
  ledCount : Nat
  gateCount : Nat
  sat : Byte
  valDefault : Byte
  valCurMatch : Byte
  valCurUnmatch : Byte
  expand : Nat
  pat0 : List Bool
  pat1 : List Bool
  overhead : Nat
  colorOrder : ColorOrder
  dataBitOrder : BitOrder
  busBitOrder : BitOrder
  extLatchReset : Edge
  prog : List Word
  deriving DecidableEq, Repr

/-- `CAP` (R7): the slot capacity of a sequence. -/
def slotCapacity : Nat := 8

/-- A sequence within the ranges of R8. The intensities are in 0..15 by their type. -/
abbrev Sequence.WF (q : Sequence) : Prop :=
  1 ≤ q.length ∧ q.length ≤ slotCapacity ∧ q.slots.length = slotCapacity

/-- A configuration of the block (R7, R8): anything else is refused before the first step. -/
abbrev Config.WF (c : Config) : Prop :=
  c.table ≠ [] ∧ (∀ q ∈ c.table, q.WF) ∧ 1 ≤ c.ledCount ∧ 1 ≤ c.expand ∧
    c.pat0.length = c.expand ∧ c.pat1.length = c.expand ∧
    c.extLatchReset ≠ .rise ∧ c.prog ≠ []

/-- Who moves next (R70): the main agent, the tick agent, or the tick line making a request that is
held in `TICK_PEND` (R35). -/
inductive Turn where
  | main
  | tick
  | tickLine
  deriving DecidableEq, Repr, Inhabited

/-- The outcome of one `Transmit` (R66). -/
inductive BusOutcome where
  | ok
  | fail
  deriving DecidableEq, Repr, Inhabited

/-- FREE VALUE (log entry 2): the schedule of the agents past the end of `env.turns` (R49, R70). -/
opaque Config.freeTurn : Nat → Turn

/-- FREE VALUE (log entry 3): the level of `CLK_IN` past the end of `env.clkIn` (R41, R65). -/
opaque Config.freeClkIn : Nat → Level

/-- FREE VALUE (log entry 3): the level of `PRESET_IN` past the end of `env.presetIn` (R44, R65). -/
opaque Config.freePresetIn : Nat → Level

/-- FREE VALUE (log entry 4): the outcome of a `Transmit` past the end of `env.bus` (R66). -/
opaque Config.freeBus : Nat → BusOutcome

/-- FREE VALUE (log entry 5): whether a TICK of a halted block counts, past the end of
`env.haltTick` (R115). -/
opaque Config.freeHaltTick : Nat → Bool

end Sys2Proof
end

