-- ==== Sys2Proof/Machine/Canonical.lean ====
section
/-! DEFINITION. The canonical loop ITER as words (R226) and the sample configuration State.reset takes (log entry 1). -/

namespace Sys2Proof.Machine

/-- `ITER` (R226): the default content of `PROG`, eleven words. -/
def iterWords : List Word :=
  [0x4000000000000000, 0x2140000000000000, 0x4100000000000000, 0x6040000000000000,
    0x6240000000000000, 0x2000000000000000, 0x3000000000000000, 0x1100000000000000,
    0x7080000000000000, 0x6080000000000000, 0x6280000000000000]

/-- The sequence of the source's end-to-end property (95_test_vectors.md V9, P1). -/
def sampleSequence : Sequence where
  length := 8
  slots := [some 1, some 3, some 5, some 8, some 9, some 10, some 12, some 15]

/-- DESIGN CHOICE, unsafe (log entry 1): the configuration of 95_test_vectors.md P1, with the sample
colour constants of that file, R7's recommended serial constants and `EXT_LATCH_RESET`, the source's
example `INTERVAL` and `HOLD_TIME`, and the `DELAY_TIME` of the same file's vectors. The open
parameters have no value in the spec; every statement is for all configurations. -/
def sampleConfig : Config where
  table := [sampleSequence]
  clkVariant := .external
  interval := 250
  holdTime := 5
  policy := .follow
  delayTime := 10
  ledCount := 8
  gateCount := 8
  sat := 255
  valDefault := 64
  valCurMatch := 255
  valCurUnmatch := 128
  expand := 4
  pat0 := [true, false, false, false]
  pat1 := [true, true, true, false]
  overhead := 140
  colorOrder := .grb
  dataBitOrder := .msbFirst
  busBitOrder := .msbFirst
  extLatchReset := .unchanged
  prog := iterWords

/-- `UNMAPPED` (R7, R170): the colour of an unset step, off. -/
def unmapped : Color := ⟨0, 0, 0⟩

end Sys2Proof.Machine
end

