-- ==== Sys2Proof/Machine/State.lean ====
section
/-! DEFINITION. The state of the block (10_state.md), its stops, and the state after reset (R50, R280). -/

namespace Sys2Proof.Machine

/-- Why the MODEL stops where the block could not be. No command of a state with its indices in range
reaches one: the block's own faults are next states (`State.raise`). -/
inductive Fault where
  /-- Raised by the fetch when `PC` is no index of `PROG`, which R31 excludes. Safe. -/
  | fetchOutsideProgram
  /-- Raised by a command that reads `SEQ` when `SEQ_PTR` is no index of `TABLE`, which R33 and R61
  exclude. Safe. -/
  | noActiveSequence
  deriving DecidableEq, Repr

/-- What the model gives no step for. -/
inductive Refusal where
  /-- Raised by `exec` for an instruction that has no meaning yet. Safe. -/
  | notModelled (mnemonic : String)
  /-- Raised by `step` when the configuration breaks R8: "a model refuses it before the first step".
  Safe. -/
  | notAConfiguration
  deriving DecidableEq, Repr

/-- The causes of a halt (R250); codes 6..15 are never written. -/
inductive Cause where
  | none
  | illegalCommand
  | invariantViolation
  | ledTransmitFailure
  | timeOverflow
  | softwareHalt
  deriving DecidableEq, Repr, Inhabited

/-- The scheduler's slot (R22, R122): `Empty` is `TASK.V = 0`, and then `TASK.KIND` and
`TASK.FIRE_AT` "hold no value a rule may read" (log entry 6). -/
inductive TaskSlot where
  | empty
  | pending (kind : TaskKind) (fireAt : Time)
  deriving DecidableEq, Repr, Inhabited

/-- The environment's coming choices (R49; log entries 2 to 5). The MODEL's own field: each list is
used from its head, and past its end the choice is a free value of `Config` at `drawn`. -/
structure Env where
  turns : List Turn
  clkIn : List Level
  presetIn : List Level
  bus : List BusOutcome
  haltTick : List Bool
  drawn : Nat
  deriving DecidableEq, Repr

/-- Nothing chosen yet. -/
def Env.fresh : Env := ⟨[], [], [], [], [], 0⟩

/-- The block. `cfg` and `env` are the model's own (R49); every other field is a row of 10_state.md's
summary table. -/
structure State where
  /-- The configuration (R7), fixed for the machine. -/
  cfg : Config
  /-- The environment's coming choices (R49). -/
  env : Env
  /-- `MILLIS` (R21). -/
  millis : Time
  /-- `TICK_PEND` (R35). -/
  tickPend : Bool
  /-- `TASK.V`, `TASK.KIND`, `TASK.FIRE_AT` (R22). -/
  task : TaskSlot
  /-- `STEP` (R23). -/
  stepReg : BitVec 3
  /-- `EXT_LATCH` (R24). -/
  extLatch : Edge
  /-- `LAST_TICK` (R25). -/
  lastTick : Time
  /-- `FLAGS.EDGE` (R26). -/
  edge : Edge
  /-- `FLAGS.CHG` (R26). -/
  chg : Bool
  /-- `RES` (R27). -/
  res : BitVec 32
  /-- `FB` (R28). -/
  fb : Frame
  /-- `LAST_V` (R29): a frame has been transmitted. -/
  lastV : Bool
  /-- `LAST[0..LED_COUNT-1]` (R29, R62), read while `LAST_V = 1` only. -/
  last : Frame
  /-- `TX` (R30), oldest first. -/
  tx : List (List Byte)
  /-- `PC` (R31), an index into `PROG`. -/
  pc : Nat
  /-- `HALTED` (R32). -/
  halted : Bool
  /-- `CAUSE` (R32). -/
  cause : Cause
  /-- `SEQ_PTR` (R33), an index into `TABLE`. -/
  seqPtr : Nat
  /-- `PRESET_PREV` (R34). -/
  presetPrev : Level
  /-- `TRIG_OUT` (R42). -/
  trigOut : Level
  /-- `SEQ_CHANGED` (R45). -/
  seqChanged : Level
  /-- `GATE[0..GATE_COUNT-1]` (R46). -/
  gates : List Level
  /-- `DAC[3:0]` (R46). -/
  dac : BitVec 4
  deriving DecidableEq, Repr

/-- The state after reset of a block with configuration `c` (R50, R280). DESIGN CHOICE, unsafe (log entry
15): `LAST[i]`, unspecified after reset (R50), is off. -/
def State.resetWith (c : Config) : State where
  cfg := c
  env := Env.fresh
  millis := 0
  tickPend := false
  task := .empty
  stepReg := 0
  extLatch := c.extLatchReset
  lastTick := 0
  edge := .unchanged
  chg := false
  res := 0
  fb := List.replicate c.ledCount unmapped
  lastV := false
  last := List.replicate c.ledCount unmapped
  tx := []
  pc := 0
  halted := false
  cause := .none
  seqPtr := 0
  presetPrev := .high
  trigOut := .low
  seqChanged := .low
  gates := List.replicate c.gateCount .low
  dac := 0

/-- The machine right after reset, for the sample configuration (log entry 1). -/
def State.reset : State := State.resetWith sampleConfig

end Sys2Proof.Machine
end

