-- ==== Sys2Proof/Machine/Ops.lean ====
section
/-! DEFINITION. The shared operations: raising a fault, ending a command, the environment's choices, the stores, reset. -/

namespace Sys2Proof.Machine

/-! ### Faults and the halt -/

/-- The code of a cause in `CAUSE` (R250), 4 bits. -/
def Cause.code : Cause → BitVec 4
  | .none => 0
  | .illegalCommand => 1
  | .invariantViolation => 2
  | .ledTransmitFailure => 3
  | .timeOverflow => 4
  | .softwareHalt => 5

/-- `raise Fault(c)` (R256): `CAUSE` is written if `HALTED = 0`, `HALTED` is set, and nothing else
changes: `PC` keeps the index of the faulting command. There is no return (R263). -/
def State.raise (s : State) (c : Cause) : State :=
  { s with halted := true, cause := if s.halted then s.cause else c }

/-- `PC <- (PC + 1) mod length(PROG)` (R31, R229). -/
def State.nextPc (s : State) : State := { s with pc := (s.pc + 1) % s.cfg.prog.length }

/-! ### One command -/

/-- What the rule of a command does: its writes, and the fault it raises. `after` is the state with
the writes; where a fault is raised it holds no write of the command (R256), only the environment's
choices used up. -/
structure Effect where
  after : State
  raises : Option Cause

/-- A command that raises no fault. -/
def Effect.writes (s : State) : Effect := ⟨s, none⟩

/-- A command that raises a fault, from the state before it. -/
def Effect.faults (s : State) (c : Cause) : Effect := ⟨s, some c⟩

/-- The end of a command (R31, R229): a fault halts and keeps `PC`, else `PC` moves on. -/
def Effect.finish (e : Effect) : State :=
  match e.raises with
  | none => e.after.nextPc
  | some c => e.after.raise c

/-- A command under its guard (R86, R229): the rule runs when the guard holds; when it does not, only
`PC` changes. -/
def runCommand (holds : Bool) (rule : State → Except Fault Effect) (s : State) :
    Host.Outcome State Fault Refusal :=
  if holds then
    match rule s with
    | .ok e => .next e.finish
    | .error f => .fault f
  else .next s.nextPc

/-! ### The environment's choices (R49) -/

/-- Only the environment's coming choices change. -/
def State.withEnv (s : State) (e : Env) : State := { s with env := e }

/-- A free value has been drawn. -/
def Env.freeDrawn (e : Env) : Env := { e with drawn := e.drawn + 1 }

/-- The choices left after one turn. -/
def Env.afterTurn (e : Env) : Env :=
  match e.turns with
  | _ :: ts => { e with turns := ts }
  | [] => e.freeDrawn

/-- The choices left after one sample of `CLK_IN`. -/
def Env.afterClkIn (e : Env) : Env :=
  match e.clkIn with
  | _ :: ls => { e with clkIn := ls }
  | [] => e.freeDrawn

/-- The choices left after one sample of `PRESET_IN`. -/
def Env.afterPresetIn (e : Env) : Env :=
  match e.presetIn with
  | _ :: ls => { e with presetIn := ls }
  | [] => e.freeDrawn

/-- The choices left after one `Transmit`. -/
def Env.afterBus (e : Env) : Env :=
  match e.bus with
  | _ :: rs => { e with bus := rs }
  | [] => e.freeDrawn

/-- The choices left after one TICK of a halted block. -/
def Env.afterHaltTick (e : Env) : Env :=
  match e.haltTick with
  | _ :: bs => { e with haltTick := bs }
  | [] => e.freeDrawn

/-- Who moves next (R70). -/
def State.turn (s : State) : Turn := s.env.turns.headD (Config.freeTurn s.env.drawn)

/-- The turn is used up. -/
def State.turnTaken (s : State) : State := s.withEnv s.env.afterTurn

/-- `Sample(CLK_IN)` (R41, R65). -/
def State.clkInLevel (s : State) : Level := s.env.clkIn.headD (Config.freeClkIn s.env.drawn)

/-- The sample of `CLK_IN` is used up; nothing of the block changes (R65). -/
def State.clkInSampled (s : State) : State := s.withEnv s.env.afterClkIn

/-- `Sample(PRESET_IN)` (R44, R65). -/
def State.presetInLevel (s : State) : Level :=
  s.env.presetIn.headD (Config.freePresetIn s.env.drawn)

/-- The sample of `PRESET_IN` is used up; nothing of the block changes (R65). -/
def State.presetInSampled (s : State) : State := s.withEnv s.env.afterPresetIn

/-- The outcome of the next `Transmit` (R66). -/
def State.busOutcome (s : State) : BusOutcome := s.env.bus.headD (Config.freeBus s.env.drawn)

/-- The outcome of a `Transmit` is used up. -/
def State.busUsed (s : State) : State := s.withEnv s.env.afterBus

/-- Whether the next TICK of a halted block counts (R115). -/
def State.haltTickCounts (s : State) : Bool :=
  s.env.haltTick.headD (Config.freeHaltTick s.env.drawn)

/-- The choice about a TICK of a halted block is used up. -/
def State.haltTickUsed (s : State) : State := s.withEnv s.env.afterHaltTick

/-! ### The program store -/

/-- Fetch (R64, R229): the word at `PC`. -/
def State.fetchWord (s : State) : Option Word := s.cfg.prog[s.pc]?

/-- The program store with the word `w` at index `n`, made long enough to have that index. Only the
load of a program uses it (log entry 9): no command writes `PROG` (R64). -/
def placeWord (prog : List Word) (n : Nat) (w : Word) : List Word :=
  (prog ++ List.replicate (n + 1 - prog.length) w).set n w

/-- The state in which the main agent moves next and fetches `w` (log entry 9). -/
def State.loadWord (s : State) (w : Word) : State :=
  { s with
    cfg := { s.cfg with prog := placeWord s.cfg.prog s.pc w }
    env := { s.env with turns := .main :: s.env.turns }
    halted := false }

/-! ### Reset -/

/-- Reset of a running or halted block (R280): every piece of state at its value after reset, the
configuration unchanged; the environment's coming choices are not the block's. -/
def State.powerCycle (s : State) : State := (State.resetWith s.cfg).withEnv s.env

end Sys2Proof.Machine
end

