-- ==== Sys2Proof/Machine/Operands.lean ====
section
/-! DEFINITION. Reading the active sequence (R61), the predicates over its slots (R16), and the stored encodings (R36, R38). -/

namespace Sys2Proof.Machine

/-- `SEQ` (R33, R61): `TABLE[SEQ_PTR]`, read afresh at every use. -/
def State.seq? (s : State) : Option Sequence := s.cfg.table[s.seqPtr]?

/-- `Slot(i)` (R11, R61) of a sequence. -/
def seqSlot (q : Sequence) (i : Nat) : Option Intensity := q.slots.getD i none

/-- `IntensityOrZero(i)` (R16): an absent slot counts as 0. -/
def intensityOrZero (q : Sequence) (i : Nat) : Nat :=
  match seqSlot q i with
  | some n => n.val
  | none => 0

/-- `Active(i)` (R16): the intensity is greater than zero. -/
def active (q : Sequence) (i : Nat) : Bool := decide (intensityOrZero q i > 0)

/-- A command that reads `SEQ`; the read cannot fail while `SEQ_PTR` is in range (R61). -/
def withSeq (s : State) (rule : Sequence → Effect) : Except Fault Effect :=
  match s.seq? with
  | some q => .ok (rule q)
  | none => .error .noActiveSequence

/-- The 2-bit code of a TriggerEdge (R36). -/
def edgeCode : Edge → Nat
  | .unchanged => 0
  | .rise => 1
  | .fall => 2

/-- A level from a truth value: `high` when it holds. -/
def levelOf (b : Bool) : Level := if b then .high else .low

/-- A bit as a number. -/
def bit (b : Bool) : Nat := if b then 1 else 0

/-- A stored colour (R38): `R ++ G ++ B`, R in bits [23:16]. -/
def colorBits (c : Color) : BitVec 24 := c.r ++ c.g ++ c.b

/-- `2^32`: no time of 32 bits reaches it (R21, `MILLIS_WIDTH` = 32). -/
def timeLimit : Nat := 2 ^ 32

end Sys2Proof.Machine
end

