-- ==== Sys2Proof/Machine/Flags.lean ====
section
/-! DEFINITION. The guards (R86) and the layouts of RES (R27). -/

namespace Sys2Proof.Machine

/-- `Guard(g)` (R86), tested against the state before the command. -/
def guardHolds (g : Guard) (s : State) : Bool :=
  match g with
  | .always => true
  | .chg => s.chg
  | .rise => decide (s.edge = .rise)

/-- `RES` after CLKCHK (R27): `STEP` in [15:8], the edge in [7:0]. -/
def resAfterClkchk (step : BitVec 3) (e : Edge) : BitVec 32 :=
  BitVec.ofNat 32 (step.toNat * 256 + edgeCode e)

/-- `RES` after SEQCHK (R27): `SEQ_PTR mod 256` in [15:8], `did_change` in [7:0]. -/
def resAfterSeqchk (ptr : Nat) (chg : Bool) : BitVec 32 :=
  BitVec.ofNat 32 (ptr % 256 * 256 + bit chg)

/-- `RES` after CMAP (R27): R in [23:16], G in [15:8], B in [7:0]. -/
def resAfterCmap (c : Color) : BitVec 32 :=
  BitVec.ofNat 32 (c.r.toNat * 65536 + c.g.toNat * 256 + c.b.toNat)

end Sys2Proof.Machine
end

