-- ==== Sys2Proof/Machine/Clock.lean ====
section
/-! DEFINITION. The clock source and edge detector (42_clock_source.md): CLKCHK and CLKRST. -/

namespace Sys2Proof.Machine

/-- `Advance(step, L)` (R130): the next step, 0 when it would exceed `L - 1`. -/
def advance (step len : Nat) : Nat := if step + 1 > len - 1 then 0 else step + 1

/-- `ExtClassify(level, latch)` (R131): no filter beyond the latch (R137). -/
def extClassify (level : Level) (latch : Edge) : Edge :=
  if level = .high ∧ latch ≠ .rise then .rise
  else if level = .low ∧ latch ≠ .fall then .fall
  else .unchanged

/-- `IntClassify(now, last_tick)` (R133): the sums are natural numbers and cannot wrap. -/
def intClassify (c : Config) (now lastTick : Nat) : Edge :=
  if now ≥ lastTick + c.interval then .rise
  else if now ≥ lastTick + c.holdTime then .fall
  else .unchanged

/-- The edge CLKCHK classifies, per variant (R134). -/
def clkEdge (s : State) : Edge :=
  match s.cfg.clkVariant with
  | .external => extClassify s.clkInLevel s.extLatch
  | .internal => intClassify s.cfg s.millis.toNat s.lastTick.toNat

/-- The variant's own update after the classification (R131, R133): the External latch keeps the last
recognised edge; the Internal clock keeps the time of this poll after a Rise. -/
def clkLatched (s : State) (e : Edge) : State :=
  match s.cfg.clkVariant with
  | .external =>
    if e = .unchanged then s.clkInSampled else { s.clkInSampled with extLatch := e }
  | .internal => if e = .rise then { s with lastTick := s.millis } else s

/-- `STEP` after a CLKCHK that classified `e` (R130, R136): it moves on a Rise only. -/
def stepAfter (step : BitVec 3) (e : Edge) (len : Nat) : BitVec 3 :=
  if e = .rise then BitVec.ofNat 3 (advance step.toNat len) else step

/-- CLKCHK's rule (R134). -/
def clkchkRule (q : Sequence) (s : State) : State :=
  { clkLatched s (clkEdge s) with
    stepReg := stepAfter s.stepReg (clkEdge s) q.length
    edge := clkEdge s
    res := resAfterClkchk (stepAfter s.stepReg (clkEdge s) q.length) (clkEdge s) }

/-- CLKCHK (R134). -/
def execClkchk (g : Guard) (s : State) : Host.Outcome State Fault Refusal :=
  runCommand (guardHolds g s) (fun s => withSeq s fun q => .writes (clkchkRule q s)) s

/-- CLKRST (R135): `STEP <- 0` and nothing else. -/
def execClkrst (g : Guard) (s : State) : Host.Outcome State Fault Refusal :=
  runCommand (guardHolds g s) (fun s => .ok (.writes { s with stepReg := 0 })) s

end Sys2Proof.Machine
end

