-- ==== Sys2Proof/Machine/Fatal.lean ====
section
/-! DEFINITION. The fatal path (60_exceptions.md): HALT. -/

namespace Sys2Proof.Machine

/-- HALT (R257): it raises `SoftwareHalt`. -/
def execHalt (g : Guard) (s : State) : Host.Outcome State Fault Refusal :=
  runCommand (guardHolds g s) (fun s => .ok (.faults s .softwareHalt)) s

end Sys2Proof.Machine
end

