-- ==== Sys2Proof/Machine/ColorMap.lean ====
section
/-! DEFINITION. The colour mapper (45_color_mapper.md): CMAP and the function RENDER uses. -/

namespace Sys2Proof.Machine

/-- `Hue(i)` (R171): a linear rescale from 0..15 to 0..255. -/
def hue (i : Nat) : Nat := i * 255 / 15

/-- `Val(role)` (R172). -/
def roleVal (c : Config) : Role → Byte
  | .default => c.valDefault
  | .curMatch => c.valCurMatch
  | .curUnmatch => c.valCurUnmatch

/-- The position inside the sector (R173). -/
def hsvF (h : Nat) : Nat := 2 * h % 85 * 3

/-- `p` of R173. -/
def hsvP (s v : Nat) : Nat := v * (255 - s) / 255

/-- `q` of R173. -/
def hsvQ (h s v : Nat) : Nat := v * (255 - s * hsvF h / 255) / 255

/-- `t` of R173. -/
def hsvT (h s v : Nat) : Nat := v * (255 - s * (255 - hsvF h) / 255) / 255

/-- A colour from three channel numbers of 0..255. -/
def colorOf (r g b : Nat) : Color := ⟨BitVec.ofNat 8 r, BitVec.ofNat 8 g, BitVec.ofNat 8 b⟩

/-- `Hsv2Rgb(h, s, v)` (R173, R174): the sector by the hue's range, 255 folding to sector 0. -/
def hsv2rgb (h s v : Nat) : Color :=
  let p := hsvP s v
  let q := hsvQ h s v
  let t := hsvT h s v
  if h ≤ 42 then colorOf v t p
  else if h ≤ 84 then colorOf q v p
  else if h ≤ 127 then colorOf p v t
  else if h ≤ 169 then colorOf p q v
  else if h ≤ 212 then colorOf t p v
  else if h ≤ 254 then colorOf v p q
  else colorOf v t p

/-- `Map(slot, role)` (R170, R175). -/
def mapColor (c : Config) (slot : Option Intensity) (role : Role) : Color :=
  match slot with
  | none => unmapped
  | some i => hsv2rgb (hue i.val) c.sat.toNat (roleVal c role).toNat

/-- The slot CMAP asks about (R176): `p = 1` is an intensity, `p = 0` is unset. -/
def cmapSlot (p : Bool) (i : BitVec 4) : Option Intensity := if p then some i.toFin else none

/-- CMAP p, i, role (R176). -/
def execCmap (g : Guard) (p : Bool) (i : BitVec 4) (role : Role) (s : State) :
    Host.Outcome State Fault Refusal :=
  runCommand (guardHolds g s)
    (fun s => .ok (.writes { s with res := resAfterCmap (mapColor s.cfg (cmapSlot p i) role) })) s

end Sys2Proof.Machine
end

