-- ==== Sys2Proof/Machine/Led.lean ====
section
/-! DEFINITION. The LED renderer (46_led_renderer.md): frame builder, diffing engine, serializer; RENDER, RENDERX, WRITE. -/

namespace Sys2Proof.Machine

/-! ### Frame builder -/

/-- `Role(pos, cur, m)` (R193). -/
def ledRole (pos cur : Nat) (m : Bool) : Role :=
  if pos ≠ cur then .default else if m then .curMatch else .curUnmatch

/-- The colour of one LED position (R192). -/
def ledColor (c : Config) (q : Sequence) (cur : Nat) (m : Bool) (pos : Nat) : Color :=
  if pos < q.length then mapColor c (seqSlot q pos) (ledRole pos cur m) else unmapped

/-- `BuildFrame(seq, cur, m)` (R192): `LED_COUNT` colours. -/
def buildFrame (c : Config) (q : Sequence) (cur : Nat) (m : Bool) : Frame :=
  (List.range c.ledCount).map (ledColor c q cur m)

/-- The match flag RENDER computes (R190): false for a step out of range. -/
def stepMatches (q : Sequence) (cur : Nat) : Bool := decide (cur < q.length) && active q cur

/-- RENDER (R190). -/
def execRender (g : Guard) (s : State) : Host.Outcome State Fault Refusal :=
  runCommand (guardHolds g s)
    (fun s => withSeq s fun q =>
      .writes { s with
        fb := buildFrame s.cfg q s.stepReg.toNat (stepMatches q s.stepReg.toNat) }) s

/-- RENDERX cur, m (R191): it does not read `STEP`. -/
def execRenderx (g : Guard) (cur : BitVec 3) (m : Bool) (s : State) :
    Host.Outcome State Fault Refusal :=
  runCommand (guardHolds g s)
    (fun s => withSeq s fun q => .writes { s with fb := buildFrame s.cfg q cur.toNat m }) s

/-! ### Serializer -/

/-- `BYTES_PER_LED` (R200). -/
def bytesPerLed (c : Config) : Nat := 3 * c.expand

/-- `BUF_LEN` (R63, R200). -/
def bufLen (c : Config) : Nat := c.overhead + bytesPerLed c * c.ledCount

/-- The channels in the order they go on the wire (R7 `COLOR_ORDER`). -/
def channelOrder : ColorOrder → List Channel
  | .rgb => [.red, .green, .blue]
  | .rbg => [.red, .blue, .green]
  | .grb => [.green, .red, .blue]
  | .gbr => [.green, .blue, .red]
  | .brg => [.blue, .red, .green]
  | .bgr => [.blue, .green, .red]

/-- The byte of one channel of a colour. -/
def channelByte (col : Color) : Channel → Byte
  | .red => col.r
  | .green => col.g
  | .blue => col.b

/-- One data bit as its run of bus bits (R202). -/
def expandBit (c : Config) (b : Bool) : List Bool := if b then c.pat1 else c.pat0

/-- The bit numbers of a byte in the order they go (R67 c, d). -/
def bitPlaces : BitOrder → List Nat
  | .msbFirst => [7, 6, 5, 4, 3, 2, 1, 0]
  | .lsbFirst => [0, 1, 2, 3, 4, 5, 6, 7]

/-- One colour byte, its data bits in their order (R67 d, R201). -/
def byteBits (c : Config) (byte : Byte) : List Bool :=
  (bitPlaces c.dataBitOrder).flatMap fun j => expandBit c (byte.getLsbD j)

/-- One LED: its three channels in `COLOR_ORDER` (R201). -/
def ledBits (c : Config) (col : Color) : List Bool :=
  (channelOrder c.colorOrder).flatMap fun ch => byteBits c (channelByte col ch)

/-- Bus bits listed from the most significant place of their byte down. -/
def fromMsb (order : BitOrder) (bits : List Bool) : List Bool :=
  match order with
  | .msbFirst => bits
  | .lsbFirst => bits.reverse

/-- Eight bus bits as the byte that the bus sends as them: the first bit stands in the place sent first,
the most significant one under the recommended order (R67 c, R201; log entry 16). -/
def byteOf (order : BitOrder) (bits : List Bool) : Byte :=
  BitVec.ofNat 8 ((fromMsb order bits).foldl (fun acc b => 2 * acc + bit b) 0)

/-- A bit string cut into `n` bytes, first 8 bits first (R201). -/
def packBytes (order : BitOrder) : Nat → List Bool → List Byte
  | 0, _ => []
  | n + 1, bits => byteOf order (bits.take 8) :: packBytes order n (bits.drop 8)

/-- `Serialize(frame)` (R201, R203): the data of every LED, first LED first, then the overhead. -/
def serialize (c : Config) (f : Frame) : List Byte :=
  packBytes c.busBitOrder (bytesPerLed c * f.length) (f.flatMap (ledBits c)) ++
    List.replicate c.overhead 0

/-! ### Diffing engine -/

/-- WRITE finds the frame that was transmitted last (R195): `LAST` is read while `LAST_V = 1` only. -/
abbrev State.frameSent (s : State) : Prop := s.lastV = true ∧ s.fb = s.last

/-- A transmission that succeeded (R195, R62): `TX`, all of `LAST`, and `LAST_V` are written. -/
def transmitted (s : State) : State :=
  { s.busUsed with tx := s.tx ++ [serialize s.cfg s.fb], lastV := true, last := s.fb }

/-- WRITE's rule (R195, R197): nothing when the frame equals the last one transmitted; a failed
transmission raises `LedTransmitFailure` and writes nothing. -/
def writeRule (s : State) : Effect :=
  if s.frameSent then .writes s
  else
    { after := if s.busOutcome = .ok then transmitted s else s.busUsed
      raises := if s.busOutcome = .ok then none else some .ledTransmitFailure }

/-- WRITE (R195). -/
def execWrite (g : Guard) (s : State) : Host.Outcome State Fault Refusal :=
  runCommand (guardHolds g s) (fun s => .ok (writeRule s)) s

end Sys2Proof.Machine
end

