-- ==== Sys2Proof/Machine/Sequencer.lean ====
section
/-! DEFINITION. The sequence controller (44_sequence_controller.md): SEQCHK and CHGIND. -/

namespace Sys2Proof.Machine

/-- The change test (R160, R163): low at the last SEQCHK, high at this one. -/
def presetChanged (prev level : Level) : Bool := decide (prev = .low ∧ level = .high)

/-- The pointer after a SEQCHK (R160): one further, modulo `TABLE_LEN`, on a change. -/
def pointerAfter (c : Config) (ptr : Nat) (chg : Bool) : Nat :=
  if chg then (ptr + 1) % c.table.length else ptr

/-- SEQCHK's rule (R160). -/
def seqchkRule (s : State) : State :=
  let chg := presetChanged s.presetPrev s.presetInLevel
  { s.presetInSampled with
    presetPrev := s.presetInLevel
    seqPtr := pointerAfter s.cfg s.seqPtr chg
    chg := chg
    res := resAfterSeqchk (pointerAfter s.cfg s.seqPtr chg) chg }

/-- SEQCHK (R160). -/
def execSeqchk (g : Guard) (s : State) : Host.Outcome State Fault Refusal :=
  runCommand (guardHolds g s) (fun s => .ok (.writes (seqchkRule s))) s

/-- CHGIND (R161): the indicator shows `FLAGS.CHG`. -/
def execChgind (g : Guard) (s : State) : Host.Outcome State Fault Refusal :=
  runCommand (guardHolds g s) (fun s => .ok (.writes { s with seqChanged := levelOf s.chg })) s

end Sys2Proof.Machine
end

