-- ==== Sys2Proof/Machine/StepApplier.lean ====
section
/-! DEFINITION. The step applier (47_step_applier_and_loop.md): STEPOUT. -/

namespace Sys2Proof.Machine

/-- The gates after STEPOUT (R220): all low, then the gate of a matching step high. -/
def gatesAfter (count step value : Nat) : List Level :=
  if value > 0 then (List.replicate count Level.low).set step .high
  else List.replicate count .low

/-- STEPOUT's rule (R220): the length test comes before the gate test (R261 b), and on a fault no pin
is written. -/
def stepoutRule (q : Sequence) (s : State) : Effect :=
  let step := s.stepReg.toNat
  let value := intensityOrZero q step
  if step ≥ q.length then .faults s .invariantViolation
  else if value > 0 ∧ step ≥ s.cfg.gateCount then .faults s .invariantViolation
  else
    .writes { s with
      dac := BitVec.ofNat 4 value
      gates := gatesAfter s.cfg.gateCount step value }

/-- STEPOUT (R220). -/
def execStepout (g : Guard) (s : State) : Host.Outcome State Fault Refusal :=
  runCommand (guardHolds g s) (fun s => withSeq s fun q => stepoutRule q s) s

end Sys2Proof.Machine
end

