-- ==== Sys2Proof/Machine/Timer.lean ====
section
/-! DEFINITION. The monotonic millisecond timer (40_millis_timer.md): NOW, and the tick agent's events. -/

namespace Sys2Proof.Machine

/-- NOW (R112): `RES <- MILLIS`, one atomic read (R69). -/
def execNow (g : Guard) (s : State) : Host.Outcome State Fault Refusal :=
  runCommand (guardHolds g s) (fun s => .ok (.writes { s with res := s.millis })) s

/-- TICK of a running block (R110, R111): at `2^32 - 1` it raises `TimeOverflow` and writes nothing
else; otherwise the counter goes up by one and the request is served. -/
def tickRunning (s : State) : State :=
  if s.millis.toNat + 1 = timeLimit then s.raise .timeOverflow
  else { s with millis := s.millis + 1, tickPend := false }

/-- TICK of a halted block (R115, R231, R263): it adds 1 or does nothing, a free choice (log entry 5);
at `2^32 - 1` it does nothing. -/
def tickHalted (s : State) : State :=
  if s.haltTickCounts ∧ s.millis.toNat + 1 ≠ timeLimit then
    { s.haltTickUsed with millis := s.millis + 1 }
  else s.haltTickUsed

/-- TICK (R110), the tick agent's step. -/
def tickEvent (s : State) : State := if s.halted then tickHalted s else tickRunning s

/-- A request on `TICK_LINE` that is held (R35, R260): it waits in `TICK_PEND`. A request already held
is served first, so that none is lost and none is served twice (log entry 10). A halted block changes
nothing (R231). -/
def tickRequest (s : State) : State :=
  if s.halted then s
  else
    let served := if s.tickPend then tickRunning s else s
    if served.halted then served else { served with tickPend := true }

end Sys2Proof.Machine
end

