-- ==== Sys2Proof/Machine/Scheduler.lean ====
section
/-! DEFINITION. The deferred-task scheduler (41_scheduler.md): SCHED and POLL. -/

namespace Sys2Proof.Machine

/-- `Schedule(slot, kind, fire_at)` (R122): whatever the slot was. -/
def schedule (_ : TaskSlot) (kind : TaskKind) (fireAt : Time) : TaskSlot := .pending kind fireAt

/-- `Poll(slot, now)` (R122): the slot after, and the kind whose effect runs. -/
def pollSlot (slot : TaskSlot) (now : Nat) : TaskSlot × Option TaskKind :=
  match slot with
  | .empty => (.empty, none)
  | .pending kind fireAt =>
    if now ≥ fireAt.toNat then (.empty, some kind) else (.pending kind fireAt, none)

/-- `Effect(kind)` (R37, R124): `TrigLow` drives `TRIG_OUT` low. -/
def taskEffect (kind : TaskKind) (s : State) : State :=
  match kind with
  | .trigLow => { s with trigOut := .low }

/-- POLL's rule (R121): clearing the slot and running the effect are one operation. -/
def pollRule (s : State) : State :=
  match pollSlot s.task s.millis.toNat with
  | (slot, some kind) => taskEffect kind { s with task := slot }
  | (slot, none) => { s with task := slot }

/-- SCHED kind, time (R120). -/
def execSched (g : Guard) (kind : TaskKind) (fireAt : Time) (s : State) :
    Host.Outcome State Fault Refusal :=
  runCommand (guardHolds g s)
    (fun s => .ok (.writes { s with task := schedule s.task kind fireAt })) s

/-- POLL (R121). -/
def execPoll (g : Guard) (s : State) : Host.Outcome State Fault Refusal :=
  runCommand (guardHolds g s) (fun s => .ok (.writes (pollRule s))) s

end Sys2Proof.Machine
end

