-- ==== Sys2Proof/Machine/Trigger.lean ====
section
/-! DEFINITION. The trigger timing state machine (43_trigger.md): TRIG. -/

namespace Sys2Proof.Machine

/-- TRIG on a Rise (R150, R153, R157): the step out of range is tested before the deadline (R261 b),
and on a fault no write of this TRIG is made. -/
def trigRise (q : Sequence) (s : State) : Effect :=
  let level := levelOf (active q s.stepReg.toNat)
  let deadline := s.millis.toNat + s.cfg.delayTime
  if s.stepReg.toNat ≥ q.length then .faults s .invariantViolation
  else if s.cfg.policy = .pulse then
    if deadline ≥ timeLimit then .faults s .timeOverflow
    else
      .writes { s with
        trigOut := level
        task := schedule s.task .trigLow (BitVec.ofNat 32 deadline) }
  else .writes { s with trigOut := level }

/-- TRIG on a Fall (R150): only Follow drops the output. -/
def trigFall (s : State) : State :=
  if s.cfg.policy = .follow then { s with trigOut := .low } else s

/-- TRIG's rule (R150, R151): the sequence is read on a Rise only. -/
def trigRule (s : State) : Except Fault Effect :=
  match s.edge with
  | .rise => withSeq s fun q => trigRise q s
  | .fall => .ok (.writes (trigFall s))
  | .unchanged => .ok (.writes s)

/-- TRIG (R150). -/
def execTrig (g : Guard) (s : State) : Host.Outcome State Fault Refusal :=
  runCommand (guardHolds g s) trigRule s

end Sys2Proof.Machine
end

