-- ==== Sys2Proof/Machine/Dispatch.lean ====
section
/-! DEFINITION. One command of the main agent: one arm per constructor (R229). -/

namespace Sys2Proof.Machine

/-- One decoded command (R229): its guard, its rule, the update of `PC`. -/
def exec (i : Instr) (s : State) : Host.Outcome State Fault Refusal :=
  match i with
  | .now g => Sys2Proof.Machine.execNow g s
  | .sched g kind fireAt => Sys2Proof.Machine.execSched g kind fireAt s
  | .poll g => Sys2Proof.Machine.execPoll g s
  | .clkchk g => Sys2Proof.Machine.execClkchk g s
  | .clkrst g => Sys2Proof.Machine.execClkrst g s
  | .trig g => Sys2Proof.Machine.execTrig g s
  | .seqchk g => Sys2Proof.Machine.execSeqchk g s
  | .chgind g => Sys2Proof.Machine.execChgind g s
  | .cmap g p ity role => Sys2Proof.Machine.execCmap g p ity role s
  | .render g => Sys2Proof.Machine.execRender g s
  | .renderx g cur m => Sys2Proof.Machine.execRenderx g cur m s
  | .write g => Sys2Proof.Machine.execWrite g s
  | .stepout g => Sys2Proof.Machine.execStepout g s
  | .halt g => Sys2Proof.Machine.execHalt g s

end Sys2Proof.Machine
end

