-- ==== Sys2Proof/Machine/Agents.lean ====
section
/-! DEFINITION. The steps of the main agent, the tick agent and the tick line (R20, R70, R229). -/

namespace Sys2Proof.Machine

/-- The main agent's step on a fetched word (R229): an illegal word raises `IllegalCommand` whatever
its guard (R85, R251), a command is executed. -/
def runWord (w : Word) (s : State) : Host.Outcome State Fault Refusal :=
  match decode w with
  | .error _ => .next (s.raise .illegalCommand)
  | .ok i => exec i s

/-- The main agent's step (R229). A halted block gives it none (R256): its turn passes and nothing
changes (log entry 11). -/
def mainStep (s : State) : Host.Outcome State Fault Refusal :=
  if s.halted then .next s
  else
    match s.fetchWord with
    | some w => runWord w s
    | none => .fault .fetchOutsideProgram

/-- One atomic step (R70) of the agent whose turn it is. -/
def agentStep (t : Turn) (s : State) : Host.Outcome State Fault Refusal :=
  match t with
  | .main => mainStep s
  | .tick => .next (tickEvent s)
  | .tickLine => .next (tickRequest s)

/-- One step of a well-formed block: the environment names the agent, the agent moves (R70). -/
def blockStep (s : State) : Host.Outcome State Fault Refusal :=
  if s.cfg.WF then agentStep s.turn s.turnTaken else .refused .notAConfiguration

end Sys2Proof.Machine
end

