-- ==== Sys2Proof/Machine/Step.lean ====
section
/-! DEFINITION. The machine's step, and a state in which a given word is the next command. -/

namespace Sys2Proof.Machine

/-- One step of the block (R70). -/
def step (s : State) : Host.Outcome State Fault Refusal := blockStep s

/-- `s` with the word of `nbits` bits `w` at `PROG[PC]` and the main agent to move (log entry 9). -/
def State.withFetchWord (s : State) (nbits w : Nat) : State :=
  s.loadWord (BitVec.ofNat 64 (w % 2 ^ nbits))

end Sys2Proof.Machine
end

