-- ==== Sys2Proof/Safety.lean ====
section
/-! DEFINITION. What counts as a good state, in the terms the claims use. -/

namespace Sys2Proof.Machine

/-- The block is running (R32, R259). -/
abbrev State.Running (s : State) : Prop := s.halted = false

/-- Every index is in range (R31, R33): the fetch and the read of `SEQ` cannot fail. -/
abbrev State.Indexed (s : State) : Prop :=
  s.pc < s.cfg.prog.length ∧ s.seqPtr < s.cfg.table.length

/-- Every store has the size the configuration gives it (R28, R29, R46, R62, R63). -/
abbrev State.Sized (s : State) : Prop :=
  s.fb.length = s.cfg.ledCount ∧ s.last.length = s.cfg.ledCount ∧
    s.gates.length = s.cfg.gateCount ∧ (∀ b ∈ s.tx, b.length = bufLen s.cfg)

/-- `LAST`, when valid, is the frame of the newest entry of `TX` (R196 a), and it is valid exactly
when a frame has been transmitted (R29). -/
abbrev State.HistoryAgrees (s : State) : Prop :=
  s.tx.getLast? = if s.lastV then some (serialize s.cfg s.last) else none

/-- `CAUSE` is `none` exactly while the block runs (R32, R250). -/
abbrev State.CauseRecorded (s : State) : Prop := s.cause = .none ↔ s.halted = false

/-- At most one gate is high (R220). -/
abbrev State.OneGate (s : State) : Prop := (s.gates.filter (· = .high)).length ≤ 1

/-- The invariant of the block. -/
abbrev State.Inv (s : State) : Prop :=
  s.cfg.WF ∧ s.Indexed ∧ s.Sized ∧ s.HistoryAgrees ∧ s.CauseRecorded ∧ s.OneGate

/-- The main agent of a well-formed running block moves next and fetches `w` (R229). -/
abbrev State.Fetches (s : State) (w : Word) : Prop :=
  s.cfg.WF ∧ s.halted = false ∧ s.turn = .main ∧ s.fetchWord = some w

/-- The next step is a `Transmit` (R195, R229): the main agent of a running block moves next, and the
command at `PC` is a WRITE whose guard holds and whose frame is not the last one transmitted. -/
def State.transmits (s : State) : Bool :=
  match s.turn, s.halted, s.fetchWord.map decode with
  | .main, false, some (.ok (.write g)) => guardHolds g s && !decide s.frameSent
  | _, _, _ => false

/-- The outcome that a `Transmit` of the next step returns (R66): the turn is used up before it. -/
def State.transmitOutcome (s : State) : BusOutcome := s.turnTaken.busOutcome

/-- The premise `BusInfallible` (R253), for an execution of `n` steps: every `Transmit` of it returns
`ok`. -/
def State.BusInfallible : State → Nat → Prop
  | _, 0 => True
  | s, n + 1 =>
    (s.transmits = true → s.transmitOutcome = .ok) ∧
      ∀ t, step s = .next t → t.BusInfallible n

end Sys2Proof.Machine
end

