-- ==== Sys2Proof/Certificates/Slice0/Obligations.lean ====
section
/-! DEFINITION. The statements for the provers, from the spec's numbered rules. -/

open Sys2Proof Sys2Proof.Machine

/-! ### Encoding -/

/-- 30_encoding.md section 5 (the four examples of R97) and one word for each further command, from
the rule that gives it: the decoder reads each as the command it stands for. -/
def Obligations.SpecWordsDecode : Prop :=
  decode 0x2140000000000000 = .ok (.clkrst .chg) ∧
  decode 0x10010000000003E8 = .ok (.sched .always .trigLow 1000) ∧
  decode 0x6100000B00000000 = .ok (.renderx .always 3 true) ∧
  decode 0x5001001500000000 = .ok (.cmap .always true 5 .curMatch) ∧
  decode 0x0180000000000000 = .ok (.now .rise) ∧
  decode 0x1100000000000000 = .ok (.poll .always) ∧
  decode 0x2000000000000000 = .ok (.clkchk .always) ∧
  decode 0x3000000000000000 = .ok (.trig .always) ∧
  decode 0x4000000000000000 = .ok (.seqchk .always) ∧
  decode 0x4100000000000000 = .ok (.chgind .always) ∧
  decode 0x6040000000000000 = .ok (.render .chg) ∧
  decode 0x6280000000000000 = .ok (.write .rise) ∧
  decode 0x7080000000000000 = .ok (.stepout .rise) ∧
  decode 0x7F80000000000000 = .ok (.halt .rise)

/-- R80 to R88: the word of a well-formed command decodes to that command, with its guard and every
operand. -/
def Obligations.EncodeThenDecode : Prop :=
  ∀ i : Instr, i.WellFormed → decode (encode i) = .ok i

/-- R91: no bit of a command word is ignored. A decoded word is the word of the command it gives, and
the command is well formed. -/
def Obligations.DecodeThenEncode : Prop :=
  ∀ (w : Word) (i : Instr), decode w = .ok i → i.WellFormed ∧ encode i = w

/-- R85: the words that decode are exactly those that pass its steps 1 to 5, the must-be-zero fields
taken from the masks of R81 to R84. -/
def Obligations.DecodeAcceptsExactlyTheTable : Prop :=
  ∀ w : Word, (∃ i, decode w = .ok i) ↔
    zField w = 0 ∧ guardField w ≠ 3 ∧
      ∃ o : Opcode, opField w = o.bits ∧ w &&& o.mask = o.pattern ∧
        (o = .sched → kField w = 1) ∧
        (o = .cmap → (kField w).extractLsb' 0 2 ≠ 3 ∧
          ((aField w).getLsbD 4 = true ∨ (aField w).extractLsb' 0 4 = 0))

/-- R90: a word whose `op` is in no row of R87 raises `IllegalCommand` at the fetch; `op = 0x00` is in
no row. -/
def Obligations.ReservedOpcodeHalts : Prop :=
  (∀ (s : State) (w : Word), s.Fetches w → (∀ o : Opcode, opField w ≠ o.bits) →
    step s = .next { s with
      env := s.env.afterTurn, halted := true, cause := .illegalCommand }) ∧
  (∀ o : Opcode, o.bits ≠ 0)

/-- R91: a non-zero `z` or must-be-zero field raises `IllegalCommand`, and two words that decode to
the same command are the same word. -/
def Obligations.MustBeZeroFieldsHalt : Prop :=
  (∀ (s : State) (w : Word), s.Fetches w →
    (zField w ≠ 0 ∨ ∃ o : Opcode, opField w = o.bits ∧ w &&& o.mask ≠ o.pattern) →
    step s = .next { s with
      env := s.env.afterTurn, halted := true, cause := .illegalCommand }) ∧
  (∀ (w w' : Word) (i : Instr), decode w = .ok i → decode w' = .ok i → w = w')

/-- R92 and R93: the reserved guard, task kinds, role and the unset slot with an intensity raise
`IllegalCommand`. -/
def Obligations.ReservedOperandsHalt : Prop :=
  ∀ (s : State) (w : Word), s.Fetches w →
    (guardField w = 3 ∨
      (opField w = 0x10 ∧ kField w ≠ 1) ∨
      (opField w = 0x50 ∧ (kField w).extractLsb' 0 2 = 3) ∨
      (opField w = 0x50 ∧ (aField w).getLsbD 4 = false ∧ (aField w).extractLsb' 0 4 ≠ 0)) →
    step s = .next { s with
      env := s.env.afterTurn, halted := true, cause := .illegalCommand }

/-! ### The step -/

/-- A step runs the decoded command: the turn is used up in `env` and nothing else is added around
`exec` (R229, R70). -/
def Obligations.StepRunsDecodedCommand : Prop :=
  ∀ (s : State) (w : Word) (i : Instr), s.Fetches w → decode w = .ok i →
    step s = exec i { s with env := s.env.afterTurn }

/-- R229: one step of the main agent. An illegal word raises `IllegalCommand` with `PC` unchanged, a
command is executed, a false guard leaves only the update of `PC`, and a halted block has no main
step: that its main agent's turn passes instead is the model's choice (log entry 11). -/
def Obligations.MainStepFetchesDecodesAndGuards : Prop :=
  (∀ (s : State) (w : Word) (e : DecodeError), s.Fetches w → decode w = .error e →
    step s = .next { s with
      env := s.env.afterTurn, halted := true, cause := .illegalCommand }) ∧
  (∀ (s : State) (w : Word) (i : Instr), s.Fetches w → decode w = .ok i →
    step s = exec i { s with env := s.env.afterTurn }) ∧
  (∀ (i : Instr) (s : State), guardHolds i.guard s = false →
    exec i s = .next { s with pc := (s.pc + 1) % s.cfg.prog.length }) ∧
  (∀ (i : Instr) (s t : State), guardHolds i.guard s = true → s.halted = false →
    exec i s = .next t →
    (t.halted = false ∧ t.pc = (s.pc + 1) % s.cfg.prog.length) ∨
      (t.halted = true ∧ t.pc = s.pc)) ∧
  (∀ s : State, s.cfg.WF → s.halted = true → s.turn = .main →
    step s = .next { s with env := s.env.afterTurn })

/-- R86: the code of each guard and what it tests; a command whose guard does not hold changes `PC` and
nothing else, for every command; an illegal word halts whatever its guard. -/
def Obligations.FalseGuardOnlyAdvancesPc : Prop :=
  (Guard.always.bits = 0 ∧ Guard.chg.bits = 1 ∧ Guard.rise.bits = 2) ∧
  (∀ (s : State) (w : Word) (e : DecodeError), s.Fetches w → decode w = .error e →
    step s = .next { s with
      env := s.env.afterTurn, halted := true, cause := .illegalCommand }) ∧
  (∀ s : State, guardHolds .always s = true ∧ (guardHolds .chg s = true ↔ s.chg = true) ∧
    (guardHolds .rise s = true ↔ s.edge = .rise)) ∧
  (∀ (i : Instr) (s : State), guardHolds i.guard s = false →
    exec i s = .next { s with pc := (s.pc + 1) % s.cfg.prog.length })

/-- R256: faults are precise. A command that halts a running block leaves every field as it was, but
for `HALTED`, `CAUSE` and the environment's choices used up; one that does not halt it moves `PC` on
(R31) and leaves `CAUSE`. -/
def Obligations.FaultsArePrecise : Prop :=
  ∀ (i : Instr) (s t : State), s.halted = false → exec i s = .next t →
    (t = { s with env := t.env, halted := true, cause := t.cause } ∧ t.cause ≠ .none) ∨
      (t.halted = false ∧ t.cause = s.cause ∧ t.pc = (s.pc + 1) % s.cfg.prog.length)

/-- R250: the codes of the causes, and which command of a running block raises which. R253: while every
`Transmit` returns `ok`, no execution of any length raises `LedTransmitFailure`; without the premise any
transmitting WRITE raises it when its `Transmit` fails, and nothing is retried. -/
def Obligations.CausesBelongToTheirCommands : Prop :=
  (Cause.none.code = 0 ∧ Cause.illegalCommand.code = 1 ∧ Cause.invariantViolation.code = 2 ∧
    Cause.ledTransmitFailure.code = 3 ∧ Cause.timeOverflow.code = 4 ∧
    Cause.softwareHalt.code = 5) ∧
  (∀ (i : Instr) (s t : State), s.halted = false → exec i s = .next t → t.halted = true →
    (t.cause = .invariantViolation ∧ (i.opcode = .trig ∨ i.opcode = .stepout)) ∨
      (t.cause = .ledTransmitFailure ∧ i.opcode = .write) ∨
      (t.cause = .timeOverflow ∧ i.opcode = .trig) ∨
      (t.cause = .softwareHalt ∧ i.opcode = .halt)) ∧
  (∀ (n : Nat) (s t : State), s.BusInfallible n → s.cause ≠ .ledTransmitFailure →
    Sys2Proof.core.run n s = .next t → t.cause ≠ .ledTransmitFailure) ∧
  (∀ s : State, s.cfg.WF → s.transmits = true → s.transmitOutcome = .fail →
    step s = .next { s with
      env := s.env.afterTurn.afterBus, halted := true, cause := .ledTransmitFailure })

/-! ### The timer -/

/-- R110, R111: a TICK of a running block below the top adds exactly 1, clears `TICK_PEND` and touches
nothing else; at `2^32 - 1` it raises `TimeOverflow` and does not change `MILLIS`. A TICK of a halted
block adds 1 or does nothing (R115, the third clause). -/
def Obligations.TickAddsOneOrHaltsAtTheTop : Prop :=
  ∀ s : State, s.cfg.WF → s.turn = .tick →
    (s.halted = false → s.millis.toNat < 2 ^ 32 - 1 →
      step s = .next { s with
        env := s.env.afterTurn
        millis := BitVec.ofNat 32 (s.millis.toNat + 1)
        tickPend := false }) ∧
    (s.halted = false → s.millis.toNat = 2 ^ 32 - 1 →
      step s = .next { s with env := s.env.afterTurn, halted := true, cause := .timeOverflow }) ∧
    (s.halted = true → ∃ t, step s = .next t ∧
      t = { s with env := t.env, millis := t.millis } ∧
      (t.millis = s.millis ∨ t.millis.toNat = s.millis.toNat + 1))

/-- R35: a held request waits in `TICK_PEND` and is served once; one that comes while another is held
does not lose it (the model's reading, log entry 10): the held one is served, and at `2^32 - 1` that
raises `TimeOverflow` (R111). -/
def Obligations.HeldTickIsServedOnce : Prop :=
  (∀ s : State, s.cfg.WF → s.halted = false → s.turn = .tickLine → s.tickPend = false →
    step s = .next { s with env := s.env.afterTurn, tickPend := true }) ∧
  (∀ s : State, s.cfg.WF → s.halted = false → s.turn = .tickLine → s.tickPend = true →
    s.millis.toNat < 2 ^ 32 - 1 →
    step s = .next { s with
      env := s.env.afterTurn, millis := BitVec.ofNat 32 (s.millis.toNat + 1) }) ∧
  (∀ s : State, s.cfg.WF → s.halted = false → s.turn = .tickLine → s.tickPend = true →
    s.millis.toNat = 2 ^ 32 - 1 →
    step s = .next { s with env := s.env.afterTurn, halted := true, cause := .timeOverflow }) ∧
  (∀ (s t u : State) (rest : List Turn), s.cfg.WF → s.halted = false →
    s.env.turns = .tickLine :: .tick :: rest → s.tickPend = false →
    s.millis.toNat < 2 ^ 32 - 1 → step s = .next t → step t = .next u →
    t.tickPend = true ∧ t.millis = s.millis ∧
      u.tickPend = false ∧ u.millis.toNat = s.millis.toNat + 1)

/-- R113: no step decreases `MILLIS`; a command leaves it alone and a TICK of a running block adds 1
or halts at the top. Over any run the counter goes up by at most one a step. -/
def Obligations.MillisNeverDecreases : Prop :=
  (∀ s t : State, step s = .next t →
    (t.millis = s.millis ∨ t.millis.toNat = s.millis.toNat + 1) ∧
      (s.turn = .main → t.millis = s.millis)) ∧
  (∀ (n : Nat) (s t : State), Sys2Proof.core.run n s = .next t →
    s.millis.toNat ≤ t.millis.toNat ∧ t.millis.toNat ≤ s.millis.toNat + n)

/-- R112: NOW writes `MILLIS` to `RES` and nothing else. -/
def Obligations.NowReturnsMillis : Prop :=
  (∀ (g : Guard) (s : State), guardHolds g s = true →
    exec (.now g) s = .next { s with
      res := s.millis, pc := (s.pc + 1) % s.cfg.prog.length }) ∧
  decode 0x0100000000000000 = .ok (.now .always)

/-! ### The scheduler -/

/-- R120: SCHED overwrites the slot whatever it held, and writes nothing else. -/
def Obligations.SchedOverwritesTheSlot : Prop :=
  (∀ (g : Guard) (kind : TaskKind) (t : Time) (s : State), guardHolds g s = true →
    exec (.sched g kind t) s = .next { s with
      task := .pending kind t, pc := (s.pc + 1) % s.cfg.prog.length }) ∧
  decode 0x10010000000003E8 = .ok (.sched .always .trigLow 1000) ∧
  TaskKind.trigLow.code = 1

/-- R121, R124: POLL fires a task that is due, clearing the slot and driving `TRIG_OUT` low in one
command, and does nothing otherwise. -/
def Obligations.PollFiresADueTask : Prop :=
  (∀ (g : Guard) (s : State) (kind : TaskKind) (t : Time), guardHolds g s = true →
    s.task = .pending kind t → t.toNat ≤ s.millis.toNat →
    exec (.poll g) s = .next { s with
      task := .empty, trigOut := .low, pc := (s.pc + 1) % s.cfg.prog.length }) ∧
  (∀ (g : Guard) (s : State) (kind : TaskKind) (t : Time), guardHolds g s = true →
    s.task = .pending kind t → s.millis.toNat < t.toNat →
    exec (.poll g) s = .next { s with pc := (s.pc + 1) % s.cfg.prog.length }) ∧
  (∀ (g : Guard) (s : State), guardHolds g s = true → s.task = .empty →
    exec (.poll g) s = .next { s with pc := (s.pc + 1) % s.cfg.prog.length }) ∧
  decode 0x1100000000000000 = .ok (.poll .always)

/-- R123 (b), (c): of two schedules only the second can fire, and a task that has fired at one POLL
does not fire at a later one. -/
def Obligations.ScheduledTaskFiresOnce : Prop :=
  ∀ (kind kind' : TaskKind) (a b m m' : Time) (s t u v w : State),
    exec (.sched .always kind a) s = .next t → exec (.sched .always kind' b) t = .next u →
    exec (.poll .always) { u with millis := m, trigOut := .high } = .next v →
    exec (.poll .always) { v with millis := m', trigOut := .high } = .next w →
    (v.trigOut = .low ↔ b.toNat ≤ m.toNat) ∧
      (b.toNat ≤ m.toNat → v.task = .empty ∧ w.trigOut = .high ∧ w.task = .empty)

/-! ### The clock source -/

/-- R130, and R136 in the last clause: `Advance` is one further inside the sequence and 0 at its end and
beyond; after any CLKCHK that classified Rise, whatever `STEP` was, the new `STEP` is below the length of
the active sequence and is the step reported. -/
def Obligations.AdvanceKeepsTheStepInRange : Prop :=
  (∀ step len : Nat, 1 ≤ len →
    (step + 1 < len → advance step len = step + 1) ∧
      (len ≤ step + 1 → advance step len = 0) ∧ advance step len < len) ∧
  (∀ (g : Guard) (s t : State) (q : Sequence), s.cfg.WF → guardHolds g s = true →
    s.seq? = some q → exec (.clkchk g) s = .next t → t.edge = .rise →
    t.stepReg.toNat < q.length ∧ (t.res.extractLsb' 8 8).toNat = t.stepReg.toNat)

/-- R131: the six rows of the edge detector's table. -/
def Obligations.EdgeDetectorTable : Prop :=
  extClassify .high .unchanged = .rise ∧ extClassify .high .fall = .rise ∧
  extClassify .high .rise = .unchanged ∧ extClassify .low .unchanged = .fall ∧
  extClassify .low .rise = .fall ∧ extClassify .low .fall = .unchanged

/-- R134 with R130, R131, R133: CLKCHK. One clause for each variant and each edge: what it samples, when
it classifies the edge, and every register it writes; everything else is unchanged. The External variant
reads no time; the Internal variant samples no pin, and after a Rise `LAST_TICK` is the time of this
poll. -/
def Obligations.ClkchkClassifiesPerVariant : Prop :=
  (∀ (g : Guard) (s : State) (q : Sequence), s.cfg.WF → guardHolds g s = true →
    s.cfg.clkVariant = .external → s.seq? = some q →
    (s.clkInLevel = .high → s.extLatch ≠ .rise →
      exec (.clkchk g) s = .next { s with
        env := s.env.afterClkIn
        extLatch := .rise
        stepReg := BitVec.ofNat 3 (advance s.stepReg.toNat q.length)
        edge := .rise
        res := BitVec.ofNat 32 (advance s.stepReg.toNat q.length * 256 + 1)
        pc := (s.pc + 1) % s.cfg.prog.length }) ∧
    (s.clkInLevel = .low → s.extLatch ≠ .fall →
      exec (.clkchk g) s = .next { s with
        env := s.env.afterClkIn
        extLatch := .fall
        edge := .fall
        res := BitVec.ofNat 32 (s.stepReg.toNat * 256 + 2)
        pc := (s.pc + 1) % s.cfg.prog.length }) ∧
    ((s.clkInLevel = .high ∧ s.extLatch = .rise) ∨
        (s.clkInLevel = .low ∧ s.extLatch = .fall) →
      exec (.clkchk g) s = .next { s with
        env := s.env.afterClkIn
        edge := .unchanged
        res := BitVec.ofNat 32 (s.stepReg.toNat * 256)
        pc := (s.pc + 1) % s.cfg.prog.length })) ∧
  (∀ (g : Guard) (s : State) (q : Sequence), s.cfg.WF → guardHolds g s = true →
    s.cfg.clkVariant = .internal → s.seq? = some q →
    (s.lastTick.toNat + s.cfg.interval ≤ s.millis.toNat →
      exec (.clkchk g) s = .next { s with
        lastTick := s.millis
        stepReg := BitVec.ofNat 3 (advance s.stepReg.toNat q.length)
        edge := .rise
        res := BitVec.ofNat 32 (advance s.stepReg.toNat q.length * 256 + 1)
        pc := (s.pc + 1) % s.cfg.prog.length }) ∧
    (s.millis.toNat < s.lastTick.toNat + s.cfg.interval →
      s.lastTick.toNat + s.cfg.holdTime ≤ s.millis.toNat →
      exec (.clkchk g) s = .next { s with
        edge := .fall
        res := BitVec.ofNat 32 (s.stepReg.toNat * 256 + 2)
        pc := (s.pc + 1) % s.cfg.prog.length }) ∧
    (s.millis.toNat < s.lastTick.toNat + s.cfg.interval →
      s.millis.toNat < s.lastTick.toNat + s.cfg.holdTime →
      exec (.clkchk g) s = .next { s with
        edge := .unchanged
        res := BitVec.ofNat 32 (s.stepReg.toNat * 256)
        pc := (s.pc + 1) % s.cfg.prog.length })) ∧
  decode 0x2000000000000000 = .ok (.clkchk .always)

/-- R132 (a), (c): two consecutive External polls at the same level never both report Rise, nor both
Fall. -/
def Obligations.SameLevelNeverRisesTwice : Prop :=
  ∀ (s t u : State) (l : Level) (rest : List Level), s.cfg.clkVariant = .external →
    s.env.clkIn = l :: l :: rest → exec (.clkchk .always) s = .next t →
    exec (.clkchk .always) t = .next u →
    ¬(t.edge = .rise ∧ u.edge = .rise) ∧ ¬(t.edge = .fall ∧ u.edge = .fall) ∧
      u.edge = .unchanged

/-- R135: CLKRST writes `STEP` and nothing else. -/
def Obligations.ClkrstClearsStepOnly : Prop :=
  (∀ (g : Guard) (s : State), guardHolds g s = true →
    exec (.clkrst g) s = .next { s with
      stepReg := 0, pc := (s.pc + 1) % s.cfg.prog.length }) ∧
  decode 0x2100000000000000 = .ok (.clkrst .always)

/-! ### The trigger -/

/-- R150 with R151, R157, R153 (d), R261 (b): TRIG per edge and policy. On a Rise inside the sequence it
drives the output from the step and, under Pulse, books the fall; a step outside the sequence, tested
first, and a deadline beyond 32 bits raise a fault and nothing is written; on a Fall only Follow drops
the output; Unchanged does nothing. -/
def Obligations.TrigFollowsItsRule : Prop :=
  (∀ (g : Guard) (s : State) (q : Sequence), guardHolds g s = true → s.edge = .rise →
    s.seq? = some q → s.stepReg.toNat < q.length →
    (s.cfg.policy ≠ .pulse →
      exec (.trig g) s = .next { s with
        trigOut := if 0 < intensityOrZero q s.stepReg.toNat then .high else .low
        pc := (s.pc + 1) % s.cfg.prog.length }) ∧
    (s.cfg.policy = .pulse → s.millis.toNat + s.cfg.delayTime < 2 ^ 32 →
      exec (.trig g) s = .next { s with
        trigOut := if 0 < intensityOrZero q s.stepReg.toNat then .high else .low
        task := .pending .trigLow (BitVec.ofNat 32 (s.millis.toNat + s.cfg.delayTime))
        pc := (s.pc + 1) % s.cfg.prog.length })) ∧
  (∀ (g : Guard) (s : State), guardHolds g s = true → s.edge = .fall →
    (s.cfg.policy = .follow →
      exec (.trig g) s = .next { s with
        trigOut := .low, pc := (s.pc + 1) % s.cfg.prog.length }) ∧
    (s.cfg.policy ≠ .follow →
      exec (.trig g) s = .next { s with pc := (s.pc + 1) % s.cfg.prog.length })) ∧
  (∀ (g : Guard) (s : State), guardHolds g s = true → s.edge = .unchanged →
    exec (.trig g) s = .next { s with pc := (s.pc + 1) % s.cfg.prog.length }) ∧
  (∀ (g : Guard) (s : State) (q : Sequence), guardHolds g s = true → s.halted = false →
    s.edge = .rise → s.seq? = some q →
    (q.length ≤ s.stepReg.toNat →
      exec (.trig g) s = .next { s with halted := true, cause := .invariantViolation }) ∧
    (s.stepReg.toNat < q.length → s.cfg.policy = .pulse →
      2 ^ 32 ≤ s.millis.toNat + s.cfg.delayTime →
      exec (.trig g) s = .next { s with halted := true, cause := .timeOverflow })) ∧
  decode 0x3000000000000000 = .ok (.trig .always)

/-- 43_trigger.md (R153, R154): the pulse of an active step ends at the first POLL at or after
`DELAY_TIME` ticks, not before. -/
def Obligations.PulseEndsAtItsDeadline : Prop :=
  ∀ (s t u : State) (q : Sequence) (m : Time), s.edge = .rise → s.seq? = some q →
    s.stepReg.toNat < q.length → 0 < intensityOrZero q s.stepReg.toNat →
    s.cfg.policy = .pulse → s.millis.toNat + s.cfg.delayTime < 2 ^ 32 →
    exec (.trig .always) s = .next t →
    exec (.poll .always) { t with millis := m } = .next u →
    (m.toNat < s.millis.toNat + s.cfg.delayTime → u.trigOut = .high ∧ u.task = t.task) ∧
      (s.millis.toNat + s.cfg.delayTime ≤ m.toNat → u.trigOut = .low ∧ u.task = .empty)

/-- R152: a repeated Fall changes nothing more than one Fall, under every policy; under Follow a Fall
leaves the output low, under Hold and Pulse it writes nothing. -/
def Obligations.RepeatedFallChangesNothing : Prop :=
  ∀ (s t u : State), s.edge = .fall → exec (.trig .always) s = .next t →
    exec (.trig .always) t = .next u →
    u = { t with pc := (t.pc + 1) % t.cfg.prog.length } ∧
      (s.cfg.policy = .follow → t.trigOut = .low) ∧
      (s.cfg.policy ≠ .follow → t = { s with pc := (s.pc + 1) % s.cfg.prog.length })

/-- R151: on a Rise the new state does not depend on the old level of `TRIG_OUT`. -/
def Obligations.TrigNeverReadsItsOutput : Prop :=
  ∀ (g : Guard) (s t : State) (l : Level), guardHolds g s = true → s.edge = .rise →
    s.halted = false → exec (.trig g) s = .next t → t.halted = false →
    exec (.trig g) { s with trigOut := l } = .next t

/-! ### The sequence controller -/

/-- R160: SEQCHK samples the pin once; low at the last check and high at this one moves the pointer on
modulo the table's length and sets `FLAGS.CHG`; anything else clears it. -/
def Obligations.SeqchkRecognisesTheRelease : Prop :=
  (∀ (g : Guard) (s : State), guardHolds g s = true →
    (s.presetPrev = .low ∧ s.presetInLevel = .high →
      exec (.seqchk g) s = .next { s with
        env := s.env.afterPresetIn
        presetPrev := .high
        seqPtr := (s.seqPtr + 1) % s.cfg.table.length
        chg := true
        res := BitVec.ofNat 32 ((s.seqPtr + 1) % s.cfg.table.length % 256 * 256 + 1)
        pc := (s.pc + 1) % s.cfg.prog.length }) ∧
    (¬(s.presetPrev = .low ∧ s.presetInLevel = .high) →
      exec (.seqchk g) s = .next { s with
        env := s.env.afterPresetIn
        presetPrev := s.presetInLevel
        chg := false
        res := BitVec.ofNat 32 (s.seqPtr % 256 * 256)
        pc := (s.pc + 1) % s.cfg.prog.length })) ∧
  decode 0x4000000000000000 = .ok (.seqchk .always)

/-- R161: CHGIND shows `FLAGS.CHG` on `SEQ_CHANGED`. -/
def Obligations.ChgindShowsTheFlag : Prop :=
  (∀ (g : Guard) (s : State), guardHolds g s = true →
    exec (.chgind g) s = .next { s with
      seqChanged := if s.chg = true then .high else .low
      pc := (s.pc + 1) % s.cfg.prog.length }) ∧
  decode 0x4100000000000000 = .ok (.chgind .always)

/-! ### The colour mapper -/

/-- R176 with R27, R170: CMAP puts the colour of its operands in `RES`, R in [23:16], G in [15:8], B
in [7:0], and reads no state but the constants; an unset slot gives 0. -/
def Obligations.CmapReturnsTheColour : Prop :=
  (∀ (g : Guard) (i : BitVec 4) (role : Role) (s : State), guardHolds g s = true →
    exec (.cmap g true i role) s = .next { s with
      res := (0 : BitVec 8) ++ (mapColor s.cfg (some i.toFin) role).r ++
        (mapColor s.cfg (some i.toFin) role).g ++ (mapColor s.cfg (some i.toFin) role).b
      pc := (s.pc + 1) % s.cfg.prog.length }) ∧
  (∀ (g : Guard) (i : BitVec 4) (role : Role) (s : State), guardHolds g s = true →
    exec (.cmap g false i role) s = .next { s with
      res := 0, pc := (s.pc + 1) % s.cfg.prog.length })

/-- R171, R172, R175: the colour of an intensity is `Hsv2Rgb` of the hue `17 * i`, the constant
saturation and the role's brightness; the unset slot is off for every role. -/
def Obligations.MapUsesHueSaturationAndRole : Prop :=
  ∀ (c : Config) (i : Intensity),
    hue i.val = i.val * 255 / 15 ∧ hue i.val = 17 * i.val ∧
    mapColor c (some i) .default = hsv2rgb (17 * i.val) c.sat.toNat c.valDefault.toNat ∧
    mapColor c (some i) .curMatch = hsv2rgb (17 * i.val) c.sat.toNat c.valCurMatch.toNat ∧
    mapColor c (some i) .curUnmatch = hsv2rgb (17 * i.val) c.sat.toNat c.valCurUnmatch.toNat ∧
    ∀ role, mapColor c none role = ⟨0, 0, 0⟩

/-- R173: the four formulas, with floor division; every intermediate value fits 16 bits and `p`, `q`, `t`
are in 0..255 (general knowledge, log entry 13). -/
def Obligations.HsvValuesFit : Prop :=
  ∀ h s v : Nat, h ≤ 255 → s ≤ 255 → v ≤ 255 →
    hsvF h = (2 * h) % 85 * 3 ∧ hsvP s v = v * (255 - s) / 255 ∧
      hsvQ h s v = v * (255 - s * hsvF h / 255) / 255 ∧
      hsvT h s v = v * (255 - s * (255 - hsvF h) / 255) / 255 ∧
      2 * h ≤ 510 ∧ hsvF h ≤ 252 ∧ s * hsvF h ≤ 64260 ∧ s * (255 - hsvF h) ≤ 65025 ∧
      v * 255 ≤ 65025 ∧ hsvP s v ≤ 255 ∧ hsvQ h s v ≤ 255 ∧ hsvT h s v ≤ 255

/-- R173, R174 (the formulas and the channel places of the sectors 1 to 5 from general knowledge, log
entry 13): the channels of the colour in each sector, in the formulas of R173; hue 255 is in the first
sector again. -/
def Obligations.HsvSectors : Prop :=
  ∀ h s v f p q t : Nat, h ≤ 255 → f = (2 * h) % 85 * 3 → p = v * (255 - s) / 255 →
    q = v * (255 - s * f / 255) / 255 → t = v * (255 - s * (255 - f) / 255) / 255 →
    (h ≤ 42 → hsv2rgb h s v = ⟨BitVec.ofNat 8 v, BitVec.ofNat 8 t, BitVec.ofNat 8 p⟩) ∧
    (43 ≤ h ∧ h ≤ 84 →
      hsv2rgb h s v = ⟨BitVec.ofNat 8 q, BitVec.ofNat 8 v, BitVec.ofNat 8 p⟩) ∧
    (85 ≤ h ∧ h ≤ 127 →
      hsv2rgb h s v = ⟨BitVec.ofNat 8 p, BitVec.ofNat 8 v, BitVec.ofNat 8 t⟩) ∧
    (128 ≤ h ∧ h ≤ 169 →
      hsv2rgb h s v = ⟨BitVec.ofNat 8 p, BitVec.ofNat 8 q, BitVec.ofNat 8 v⟩) ∧
    (170 ≤ h ∧ h ≤ 212 →
      hsv2rgb h s v = ⟨BitVec.ofNat 8 t, BitVec.ofNat 8 p, BitVec.ofNat 8 v⟩) ∧
    (213 ≤ h ∧ h ≤ 254 →
      hsv2rgb h s v = ⟨BitVec.ofNat 8 v, BitVec.ofNat 8 p, BitVec.ofNat 8 q⟩) ∧
    (h = 255 →
      hsv2rgb h s v = ⟨BitVec.ofNat 8 v, BitVec.ofNat 8 t, BitVec.ofNat 8 p⟩ ∧ f = 0)

/-- R177 (a), (b), (c), (e), (f): the facts the mapper must reproduce. -/
def Obligations.HsvFacts : Prop :=
  (∀ v : Nat, hsv2rgb 0 255 v = colorOf v 0 0) ∧
  (∀ s v : Nat, hsv2rgb 255 s v = hsv2rgb 0 s v) ∧
  (∀ (c : Config) (role : Role), mapColor c (some 15) role = mapColor c (some 0) role) ∧
  (∀ h s : Nat, hsv2rgb h s 0 = colorOf 0 0 0) ∧
  (∀ h v : Nat, hsv2rgb h 0 v = colorOf v v v)

/-! ### The LED renderer -/

/-- R190 with R192, R193: RENDER writes `FB` and nothing else: `LED_COUNT` colours, each the mapped
slot of its position in the role the step gives it, off beyond the sequence. -/
def Obligations.RenderBuildsTheFrame : Prop :=
  ∀ (g : Guard) (s : State) (q : Sequence), guardHolds g s = true → s.seq? = some q →
    ∃ f : Frame,
      exec (.render g) s = .next { s with
        fb := f, pc := (s.pc + 1) % s.cfg.prog.length } ∧
      f.length = s.cfg.ledCount ∧
      ∀ pos : Nat, pos < s.cfg.ledCount → f[pos]? = some
        (if pos < q.length then
          mapColor s.cfg (q.slots.getD pos none)
            (if pos ≠ s.stepReg.toNat then .default
              else if 0 < intensityOrZero q s.stepReg.toNat then .curMatch else .curUnmatch)
        else ⟨0, 0, 0⟩)

/-- R191 with R192, R193: RENDERX builds the frame from its operands and does not read `STEP`. -/
def Obligations.RenderxBuildsTheFrame : Prop :=
  ∀ (g : Guard) (cur : BitVec 3) (m : Bool) (s : State) (q : Sequence),
    guardHolds g s = true → s.seq? = some q →
    ∃ f : Frame,
      exec (.renderx g cur m) s = .next { s with
        fb := f, pc := (s.pc + 1) % s.cfg.prog.length } ∧
      f.length = s.cfg.ledCount ∧
      ∀ pos : Nat, pos < s.cfg.ledCount → f[pos]? = some
        (if pos < q.length then
          mapColor s.cfg (q.slots.getD pos none)
            (if pos ≠ cur.toNat then .default
              else if m = true then .curMatch else .curUnmatch)
        else ⟨0, 0, 0⟩)

/-- R195, R197: WRITE does nothing when `LAST_V = 1` and `FB` equals `LAST`; otherwise it transmits
the whole frame and records it, or, when the transmission fails, raises `LedTransmitFailure` and
records nothing. -/
def Obligations.WriteTransmitsOnChange : Prop :=
  (∀ (g : Guard) (s : State), guardHolds g s = true →
    (s.lastV = true ∧ s.fb = s.last →
      exec (.write g) s = .next { s with pc := (s.pc + 1) % s.cfg.prog.length }) ∧
    (¬(s.lastV = true ∧ s.fb = s.last) → s.busOutcome = .ok →
      exec (.write g) s = .next { s with
        env := s.env.afterBus
        tx := s.tx ++ [serialize s.cfg s.fb]
        lastV := true
        last := s.fb
        pc := (s.pc + 1) % s.cfg.prog.length }) ∧
    (¬(s.lastV = true ∧ s.fb = s.last) → s.busOutcome = .fail → s.halted = false →
      exec (.write g) s = .next { s with
        env := s.env.afterBus, halted := true, cause := .ledTransmitFailure })) ∧
  decode 0x6200000000000000 = .ok (.write .always)

/-- R196 (b): two WRITEs with no RENDER or RENDERX between them transmit at most once. -/
def Obligations.SecondWriteTransmitsNothing : Prop :=
  ∀ (s t u : State), exec (.write .always) s = .next t → t.halted = false → s.halted = false →
    exec (.write .always) t = .next u →
    u = { t with pc := (t.pc + 1) % t.cfg.prog.length }

/-- R200 to R203 with R67 (b), (c), (d) (the orders are general knowledge, log entries 13 and 16): the
buffer has `BUF_LEN` bytes, and the bits the bus sends of it are, LED by LED, the three channels in
`COLOR_ORDER`, each channel's data bits in their order, `PAT1` for a 1 and `PAT0` for a 0; then the
overhead's zeros. No bit is lost or added. -/
def Obligations.SerializerKeepsEveryBit : Prop :=
  ∀ (c : Config) (f : Frame), c.WF → f.length = c.ledCount →
    (serialize c f).length = c.overhead + 3 * c.expand * c.ledCount ∧
      (serialize c f).flatMap (fun b : Byte =>
          (match c.busBitOrder with
            | .msbFirst => [7, 6, 5, 4, 3, 2, 1, 0]
            | .lsbFirst => [0, 1, 2, 3, 4, 5, 6, 7]).map fun j : Nat => b.getLsbD j) =
        f.flatMap (fun col : Color =>
            (match c.colorOrder with
              | .rgb => [col.r, col.g, col.b]
              | .rbg => [col.r, col.b, col.g]
              | .grb => [col.g, col.r, col.b]
              | .gbr => [col.g, col.b, col.r]
              | .brg => [col.b, col.r, col.g]
              | .bgr => [col.b, col.g, col.r]).flatMap fun byte : Byte =>
            (match c.dataBitOrder with
              | .msbFirst => [7, 6, 5, 4, 3, 2, 1, 0]
              | .lsbFirst => [0, 1, 2, 3, 4, 5, 6, 7]).flatMap fun j : Nat =>
                if byte.getLsbD j = true then c.pat1 else c.pat0) ++
          List.replicate (8 * c.overhead) false

/-! ### The step applier and HALT -/

/-- R220: STEPOUT writes the DAC and the gates and nothing else, every gate low but that of a matching
step; a step outside the sequence, and a matching step with no gate pin, raise `InvariantViolation` and
no pin is written. -/
def Obligations.StepoutDrivesDacAndGates : Prop :=
  ∀ (g : Guard) (s : State) (q : Sequence), guardHolds g s = true → s.seq? = some q →
    (s.stepReg.toNat < q.length →
      (intensityOrZero q s.stepReg.toNat = 0 ∨ s.stepReg.toNat < s.cfg.gateCount) →
      ∃ gs : List Level,
        exec (.stepout g) s = .next { s with
          dac := BitVec.ofNat 4 (intensityOrZero q s.stepReg.toNat)
          gates := gs
          pc := (s.pc + 1) % s.cfg.prog.length } ∧
        gs.length = s.cfg.gateCount ∧
        ∀ n : Nat, n < s.cfg.gateCount → gs[n]? = some
          (if 0 < intensityOrZero q s.stepReg.toNat ∧ n = s.stepReg.toNat then .high else .low)) ∧
    (s.halted = false →
      (q.length ≤ s.stepReg.toNat ∨
        (0 < intensityOrZero q s.stepReg.toNat ∧ s.cfg.gateCount ≤ s.stepReg.toNat)) →
      exec (.stepout g) s = .next { s with halted := true, cause := .invariantViolation })

/-- R16: `IntensityOrZero` and `Active` of a slot. -/
def Obligations.AbsentSlotCountsAsZero : Prop :=
  ∀ (q : Sequence) (i : Nat),
    (q.slots.getD i none = none → intensityOrZero q i = 0 ∧ active q i = false) ∧
      (∀ n : Intensity, q.slots.getD i none = some n →
        intensityOrZero q i = n.val ∧ (active q i = true ↔ 0 < n.val))

/-- R257: HALT raises `SoftwareHalt`; `PC` keeps its index. -/
def Obligations.HaltRaisesSoftwareHalt : Prop :=
  (∀ (g : Guard) (s : State), guardHolds g s = true → s.halted = false →
    exec (.halt g) s = .next { s with halted := true, cause := .softwareHalt }) ∧
  decode 0x7F00000000000000 = .ok (.halt .always)

/-! ### The halt, reset -/

/-- R231, R256, R263 and R115: a halted block steps for ever and nothing of it changes but possibly
`MILLIS`, by one up; a TICK may add 1 and may do nothing. That the main agent's turn passes is the
model's form of "no step" (log entry 11). -/
def Obligations.HaltedBlockIsFrozen : Prop :=
  (∀ (n : Nat) (s : State), s.cfg.WF → s.halted = true →
    ∃ t, Sys2Proof.core.run n s = .next t ∧
      t = { s with env := t.env, millis := t.millis }) ∧
  (∀ (s : State) (rest : List Bool), s.cfg.WF → s.halted = true → s.turn = .tick →
    s.millis.toNat < 2 ^ 32 - 1 →
    (s.env.haltTick = true :: rest →
      ∃ t, step s = .next t ∧ t.millis.toNat = s.millis.toNat + 1) ∧
    (s.env.haltTick = false :: rest → ∃ t, step s = .next t ∧ t.millis = s.millis))

/-- R280, in the model's form of it (an operation beside the step, log entry 14): reset takes any state,
a halted one too, to word 0 of its own configuration with every register and pin of R50 as after
power-up, and a well-formed block meets the invariant again; the environment's choices stay. -/
def Obligations.ResetLeavesTheHalt : Prop :=
  ∀ s : State, s.cfg.WF →
    s.powerCycle.Inv ∧ s.powerCycle.halted = false ∧ s.powerCycle.pc = 0 ∧
      s.powerCycle = { State.resetWith s.cfg with env := s.env }

/-- R50, for every configuration: every piece of state after reset. -/
def Obligations.ResetValues : Prop :=
  ∀ c : Config,
    (State.resetWith c).millis = 0 ∧ (State.resetWith c).tickPend = false ∧
    (State.resetWith c).task = .empty ∧ (State.resetWith c).stepReg = 0 ∧
    (State.resetWith c).extLatch = c.extLatchReset ∧ (State.resetWith c).lastTick = 0 ∧
    (State.resetWith c).edge = .unchanged ∧ (State.resetWith c).chg = false ∧
    (State.resetWith c).res = 0 ∧
    (∀ i : Nat, i < c.ledCount → (State.resetWith c).fb[i]? = some ⟨0, 0, 0⟩) ∧
    (State.resetWith c).lastV = false ∧ (State.resetWith c).tx = [] ∧
    (State.resetWith c).pc = 0 ∧ (State.resetWith c).halted = false ∧
    (State.resetWith c).cause.code = 0 ∧ (State.resetWith c).seqPtr = 0 ∧
    (State.resetWith c).presetPrev = .high ∧ (State.resetWith c).trigOut = .low ∧
    (State.resetWith c).seqChanged = .low ∧
    (∀ i : Nat, i < c.gateCount → (State.resetWith c).gates[i]? = some .low) ∧
    (State.resetWith c).dac = 0

/-- R8: a configuration that breaks the ranges is refused before the first step. -/
def Obligations.IllFormedConfigurationIsRefused : Prop :=
  ∀ s : State, ¬s.cfg.WF → step s = .refused .notAConfiguration

/-! ### Frames: who writes what -/

/-- R20, R75, R114, R156: no command writes `MILLIS`, `TICK_PEND` or the configuration, and no step at
all changes the configuration. -/
def Obligations.CommandsLeaveTimerAndConfiguration : Prop :=
  (∀ (i : Instr) (s t : State), exec i s = .next t →
    t.millis = s.millis ∧ t.tickPend = s.tickPend ∧ t.cfg = s.cfg) ∧
  (∀ s t : State, step s = .next t → t.cfg = s.cfg)

/-- R20, R110: a step of the tick agent or of the tick line changes `MILLIS`, `TICK_PEND`, `HALTED` and
`CAUSE` at most, beside the environment's choices. -/
def Obligations.TickTouchesOnlyTheTimer : Prop :=
  ∀ s t : State, s.turn ≠ .main → step s = .next t →
    t = { s with
      env := t.env, millis := t.millis, tickPend := t.tickPend, halted := t.halted
      cause := t.cause }

/-- R23, R24, R25, R26, R123 (e): the frame of the clock, flag and scheduler registers over every
command, its guard true or false, faulting or not. -/
def Obligations.ClockFlagAndSlotWriters : Prop :=
  ∀ (i : Instr) (s t : State), exec i s = .next t →
    (i.opcode ≠ .clkchk → i.opcode ≠ .clkrst → t.stepReg = s.stepReg) ∧
    (i.opcode ≠ .clkchk →
      t.extLatch = s.extLatch ∧ t.lastTick = s.lastTick ∧ t.edge = s.edge) ∧
    (i.opcode ≠ .seqchk →
      t.chg = s.chg ∧ t.seqPtr = s.seqPtr ∧ t.presetPrev = s.presetPrev) ∧
    (i.opcode ≠ .sched → i.opcode ≠ .trig → i.opcode ≠ .poll → t.task = s.task) ∧
    (i.opcode ≠ .now → i.opcode ≠ .clkchk → i.opcode ≠ .seqchk → i.opcode ≠ .cmap →
      t.res = s.res)

/-- R28, R29, R30, R40, R42, R45, R46, R196 (d): the frame of the frame stores, the bus history and
the output pins over every command, its guard true or false, faulting or not. -/
def Obligations.FrameStoreAndPinWriters : Prop :=
  ∀ (i : Instr) (s t : State), exec i s = .next t →
    (i.opcode ≠ .render → i.opcode ≠ .renderx → t.fb = s.fb) ∧
    (i.opcode ≠ .write → t.lastV = s.lastV ∧ t.last = s.last ∧ t.tx = s.tx) ∧
    (i.opcode ≠ .trig → i.opcode ≠ .poll → t.trigOut = s.trigOut) ∧
    (i.opcode ≠ .chgind → t.seqChanged = s.seqChanged) ∧
    (i.opcode ≠ .stepout → t.gates = s.gates ∧ t.dac = s.dac)

/-! ### Whole-machine properties -/

/-- R30: `TX` is append-only, over every step of every agent. -/
def Obligations.HistoryIsAppendOnly : Prop :=
  ∀ s t : State, step s = .next t → ∃ new, t.tx = s.tx ++ new ∧ new.length ≤ 1

/-- 42_clock_source.md section 2 (R131, R24): once an edge has been recognised, `EXT_LATCH` is never
`Unchanged` again, over every step of the External machine. -/
def Obligations.LatchNeverForgets : Prop :=
  ∀ s t : State, step s = .next t → s.extLatch ≠ .unchanged → t.extLatch ≠ .unchanged

/-- R27, R30: no rule reads `RES` or `TX`: two states that differ in them only make the same step of
every command, but for `RES` and `TX` themselves. -/
def Obligations.ResultAndHistoryAreNeverRead : Prop :=
  ∀ (i : Instr) (s t : State) (r : BitVec 32) (x : List (List Byte)), exec i s = .next t →
    ∃ t', exec i { s with res := r, tx := x } = .next t' ∧
      { t' with res := 0, tx := [] } = { t with res := 0, tx := [] }

/-- R29, R50 and U10: `LAST` is not read while `LAST_V = 0`. Two states with `LAST_V = 0` that differ in
`LAST` only make the same step of every command, but for `LAST` itself; once a frame has been transmitted
they are the same state. So nothing rests on the value `LAST` has at reset (log entry 15). -/
def Obligations.LastIsNotReadWhileInvalid : Prop :=
  ∀ (i : Instr) (s t : State) (f : Frame), s.lastV = false → exec i s = .next t →
    ∃ t', exec i { s with last := f } = .next t' ∧ { t' with last := [] } = { t with last := [] } ∧
      (t.lastV = true → t' = t)

/-- R8, R61: slots beyond `length` are ignored by all consumers. Two tables of the same lengths whose
sequences agree on the slots inside `length` make the same step of every command, the table aside. -/
def Obligations.SlotsBeyondLengthAreIgnored : Prop :=
  ∀ (i : Instr) (s t : State) (tab : List Sequence),
    List.Forall₂ (fun q r : Sequence => r.length = q.length ∧
      ∀ k : Nat, k < q.length → r.slots.getD k none = q.slots.getD k none) s.cfg.table tab →
    exec i s = .next t →
    exec i { s with cfg := { s.cfg with table := tab } } =
      .next { t with cfg := { t.cfg with table := tab } }

/-- R71 (d), R206: a TICK before a command that does not read `MILLIS` and the TICK after it give the
same state; WRITE is such a command, and so is every one but NOW, POLL, CLKCHK of the Internal variant
and TRIG under Pulse. -/
def Obligations.TickCommutesWithTimelessCommands : Prop :=
  ∀ (i : Instr) (s t : State), s.halted = false → s.millis.toNat < 2 ^ 32 - 1 →
    i.opcode ≠ .now → i.opcode ≠ .poll →
    (i.opcode = .clkchk → s.cfg.clkVariant = .external) →
    (i.opcode = .trig → s.cfg.policy ≠ .pulse) →
    exec i s = .next t →
    exec i (tickEvent s) = .next { t with millis := s.millis + 1, tickPend := false } ∧
      (t.halted = false →
        tickEvent t = { t with millis := s.millis + 1, tickPend := false })

/-- No command and no agent is stuck. In a state that meets the invariant every command answers a next
state, and so does the step, whoever moves. R259 says so of a running block only, and by R229 and R256
a halted block's main agent has no step: that the clauses hold in halted states too, where `exec` is
defined and the main agent's turn passes, is the model's choice (log entry 11). -/
def Obligations.NothingIsStuck : Prop :=
  (∀ (i : Instr) (s : State), s.Inv → ∃ t, exec i s = .next t) ∧
  (∀ s : State, s.Inv → ∃ t, step s = .next t)

/-- The invariant of the block, kept by every step from every state that meets it: the configuration
is well formed and the indices in range (R31, R33), every store has its size (R28, R29, R46, R63),
`LAST` is the newest frame of `TX` (R196 a), `CAUSE` is set exactly by the halt (R32), and at most one
gate is high (R220). -/
def Obligations.StepKeepsTheInvariant : Prop :=
  ∀ s t : State, s.Inv → step s = .next t → t.Inv

/-- The invariant holds after reset, for every well-formed configuration. -/
def Obligations.ResetMeetsTheInvariant : Prop :=
  ∀ c : Config, c.WF → (State.resetWith c).Inv
end

