-- ==== Sys2Proof/Laws/Encoding.lean ====
section
/-! SUPPORT. The fields of a packed word, a word from its fields, and the small tables of the encoding. -/

namespace Sys2Proof

/-! ### The small tables -/

@[simp] theorem Opcode.ofBits_bits (o : Opcode) : Opcode.ofBits o.bits = some o := by
  cases o <;> decide

theorem Opcode.bits_of_ofBits {b : BitVec 8} {o : Opcode} (h : Opcode.ofBits b = some o) :
    o.bits = b := by simpa using List.find?_some h

@[simp] theorem Guard.ofBits_bits (g : Guard) : Guard.ofBits g.bits = some g := by
  cases g <;> decide

theorem Guard.bits_of_ofBits {b : BitVec 2} {g : Guard} (h : Guard.ofBits b = some g) :
    g.bits = b := by simpa using List.find?_some h

@[simp] theorem TaskKind.ofCode_code (k : TaskKind) : TaskKind.ofCode k.code = some k := by
  cases k; decide

theorem TaskKind.code_of_ofCode {b : BitVec 4} {k : TaskKind} (h : TaskKind.ofCode b = some k) :
    k.code = b := by simpa using List.find?_some h

@[simp] theorem Role.ofBits_bits (r : Role) : Role.ofBits r.bits = some r := by
  cases r <;> decide

theorem Role.bits_of_ofBits {b : BitVec 2} {r : Role} (h : Role.ofBits b = some r) :
    r.bits = b := by simpa using List.find?_some h

/-! ### The fields of a packed word (R80) -/

section Fields

variable (o : Opcode) (g : Guard) (k : BitVec 4) (a : BitVec 16) (imm : BitVec 32)

@[simp] theorem opField_packWord : opField (packWord o g k a imm) = o.bits := by
  ext n hn
  simp only [opField, packWord, BitVec.getElem_extractLsb', BitVec.getLsbD_append]
  have h1 : ¬(56 + n < 32) := by omega
  have h2 : ¬(56 + n - 32 < 16) := by omega
  have h3 : ¬(56 + n - 32 - 16 < 4) := by omega
  have h4 : ¬(56 + n - 32 - 16 - 4 < 2) := by omega
  have h5 : ¬(56 + n - 32 - 16 - 4 - 2 < 2) := by omega
  have h6 : 56 + n - 32 - 16 - 4 - 2 - 2 = n := by omega
  simp [h1, h2, h3, h4, h5, h6, BitVec.getLsbD_eq_getElem hn]

@[simp] theorem guardField_packWord : guardField (packWord o g k a imm) = g.bits := by
  ext n hn
  simp only [guardField, packWord, BitVec.getElem_extractLsb', BitVec.getLsbD_append]
  have h1 : ¬(54 + n < 32) := by omega
  have h2 : ¬(54 + n - 32 < 16) := by omega
  have h3 : ¬(54 + n - 32 - 16 < 4) := by omega
  have h4 : ¬(54 + n - 32 - 16 - 4 < 2) := by omega
  have h5 : 54 + n - 32 - 16 - 4 - 2 = n := by omega
  simp [h1, h2, h3, h4, h5, hn]

@[simp] theorem zField_packWord : zField (packWord o g k a imm) = 0 := by
  ext n hn
  simp only [zField, packWord, BitVec.getElem_extractLsb', BitVec.getLsbD_append]
  have h1 : ¬(52 + n < 32) := by omega
  have h2 : ¬(52 + n - 32 < 16) := by omega
  have h3 : ¬(52 + n - 32 - 16 < 4) := by omega
  have h4 : 52 + n - 32 - 16 - 4 = n := by omega
  simp [h1, h2, h3, h4, hn]

@[simp] theorem kField_packWord : kField (packWord o g k a imm) = k := by
  ext n hn
  simp only [kField, packWord, BitVec.getElem_extractLsb', BitVec.getLsbD_append]
  have h1 : ¬(48 + n < 32) := by omega
  have h2 : ¬(48 + n - 32 < 16) := by omega
  have h3 : 48 + n - 32 - 16 = n := by omega
  simp [h1, h2, h3, hn]

@[simp] theorem aField_packWord : aField (packWord o g k a imm) = a := by
  ext n hn
  simp only [aField, packWord, BitVec.getElem_extractLsb', BitVec.getLsbD_append]
  simp [hn]

@[simp] theorem immField_packWord : immField (packWord o g k a imm) = imm := by
  ext n hn
  simp only [immField, packWord, BitVec.getElem_extractLsb', BitVec.getLsbD_append]
  simp [hn]

end Fields

/-- A word with `z` zero is its fields packed (R80): no other bit is in it. -/
theorem packed_fields {w : Word} {o : Opcode} {g : Guard} (hz : zField w = 0)
    (ho : opField w = o.bits) (hg : guardField w = g.bits) :
    packWord o g (kField w) (aField w) (immField w) = w := by
  rw [packWord, ← ho, ← hg, ← hz]
  ext n hn
  simp only [opField, guardField, zField, kField, aField, immField, BitVec.getElem_append,
    BitVec.getElem_extractLsb']
  rw [← BitVec.getLsbD_eq_getElem hn]
  repeat' split
  all_goals (congr 1; omega)

/-! ### The operand fields of formats R and C (R83, R84) -/

@[simp] theorem renderOperands_zero (cur : BitVec 3) (m : Bool) :
    ((0 : BitVec 12) ++ BitVec.ofBool m ++ cur).extractLsb' 4 12 = 0 := by
  cases m <;> revert cur <;> decide

@[simp] theorem renderOperands_cur (cur : BitVec 3) (m : Bool) :
    ((0 : BitVec 12) ++ BitVec.ofBool m ++ cur).extractLsb' 0 3 = cur := by
  cases m <;> revert cur <;> decide

@[simp] theorem renderOperands_m (cur : BitVec 3) (m : Bool) :
    ((0 : BitVec 12) ++ BitVec.ofBool m ++ cur).getLsbD 3 = m := by
  cases m <;> revert cur <;> decide

/-- Format R's field from its operands: no bit of `a` is lost when its must-be-zero bits are zero. -/
theorem renderOperands_eq {a : BitVec 16} (h : a.extractLsb' 4 12 = 0) :
    (0 : BitVec 12) ++ BitVec.ofBool (a.getLsbD 3) ++ a.extractLsb' 0 3 = a := by
  rw [← h]
  ext n hn
  simp only [BitVec.getElem_append, BitVec.getElem_extractLsb', BitVec.getElem_ofBool]
  rw [← BitVec.getLsbD_eq_getElem hn]
  repeat' split
  all_goals (congr 1; omega)

@[simp] theorem cmapOperands_zero (i : BitVec 4) (p : Bool) :
    ((0 : BitVec 11) ++ BitVec.ofBool p ++ i).extractLsb' 5 11 = 0 := by
  cases p <;> revert i <;> decide

@[simp] theorem cmapOperands_i (i : BitVec 4) (p : Bool) :
    ((0 : BitVec 11) ++ BitVec.ofBool p ++ i).extractLsb' 0 4 = i := by
  cases p <;> revert i <;> decide

@[simp] theorem cmapOperands_p (i : BitVec 4) (p : Bool) :
    ((0 : BitVec 11) ++ BitVec.ofBool p ++ i).getLsbD 4 = p := by
  cases p <;> revert i <;> decide

/-- Format C's field from its operands. -/
theorem cmapOperands_eq {a : BitVec 16} (h : a.extractLsb' 5 11 = 0) :
    (0 : BitVec 11) ++ BitVec.ofBool (a.getLsbD 4) ++ a.extractLsb' 0 4 = a := by
  rw [← h]
  ext n hn
  simp only [BitVec.getElem_append, BitVec.getElem_extractLsb', BitVec.getElem_ofBool]
  rw [← BitVec.getLsbD_eq_getElem hn]
  repeat' split
  all_goals (congr 1; omega)

@[simp] theorem roleField_zero (r : BitVec 2) : ((0 : BitVec 2) ++ r).extractLsb' 2 2 = 0 := by
  revert r; decide

@[simp] theorem roleField_role (r : BitVec 2) : ((0 : BitVec 2) ++ r).extractLsb' 0 2 = r := by
  revert r; decide

theorem roleField_eq {k : BitVec 4} (h : k.extractLsb' 2 2 = 0) :
    (0 : BitVec 2) ++ k.extractLsb' 0 2 = k := by
  revert k; decide

/-! ### Decoding a packed word -/

/-- Decoding a packed word is decoding its operand fields under its opcode and guard (R85). -/
@[simp] theorem decode_packWord (o : Opcode) (g : Guard) (k : BitVec 4) (a : BitVec 16)
    (imm : BitVec 32) : decode (packWord o g k a imm) = decodeOperands o g k a imm := by
  simp [decode]

/-- A word that decodes passed steps 1 to 3 of R85 and its operand fields decoded. -/
theorem decode_ok {w : Word} {i : Instr} (h : decode w = .ok i) :
    ∃ o g, zField w = 0 ∧ guardField w = g.bits ∧ opField w = o.bits ∧
      decodeOperands o g (kField w) (aField w) (immField w) = .ok i := by
  unfold decode at h
  split at h
  · next hz =>
    split at h
    · simp at h
    · next g hg =>
      split at h
      · simp at h
      · next o ho =>
        exact ⟨o, g, hz, (Guard.bits_of_ofBits hg).symm, (Opcode.bits_of_ofBits ho).symm, h⟩
  · simp at h

end Sys2Proof
end

