-- ==== Sys2Proof/Laws/State.lean ====
section
/-! SUPPORT. One lemma per field per update of State: what `nextPc`, `raise` and `withEnv` read as. -/

namespace Sys2Proof.Machine

variable (s : State)

/-! ### `State.nextPc` -/

@[simp] theorem nextPc_cfg : s.nextPc.cfg = s.cfg := rfl

@[simp] theorem nextPc_env : s.nextPc.env = s.env := rfl

@[simp] theorem nextPc_millis : s.nextPc.millis = s.millis := rfl

@[simp] theorem nextPc_tickPend : s.nextPc.tickPend = s.tickPend := rfl

@[simp] theorem nextPc_task : s.nextPc.task = s.task := rfl

@[simp] theorem nextPc_stepReg : s.nextPc.stepReg = s.stepReg := rfl

@[simp] theorem nextPc_extLatch : s.nextPc.extLatch = s.extLatch := rfl

@[simp] theorem nextPc_lastTick : s.nextPc.lastTick = s.lastTick := rfl

@[simp] theorem nextPc_edge : s.nextPc.edge = s.edge := rfl

@[simp] theorem nextPc_chg : s.nextPc.chg = s.chg := rfl

@[simp] theorem nextPc_res : s.nextPc.res = s.res := rfl

@[simp] theorem nextPc_fb : s.nextPc.fb = s.fb := rfl

@[simp] theorem nextPc_lastV : s.nextPc.lastV = s.lastV := rfl

@[simp] theorem nextPc_last : s.nextPc.last = s.last := rfl

@[simp] theorem nextPc_tx : s.nextPc.tx = s.tx := rfl

@[simp] theorem nextPc_pc : s.nextPc.pc = (s.pc + 1) % s.cfg.prog.length := rfl

@[simp] theorem nextPc_halted : s.nextPc.halted = s.halted := rfl

@[simp] theorem nextPc_cause : s.nextPc.cause = s.cause := rfl

@[simp] theorem nextPc_seqPtr : s.nextPc.seqPtr = s.seqPtr := rfl

@[simp] theorem nextPc_presetPrev : s.nextPc.presetPrev = s.presetPrev := rfl

@[simp] theorem nextPc_trigOut : s.nextPc.trigOut = s.trigOut := rfl

@[simp] theorem nextPc_seqChanged : s.nextPc.seqChanged = s.seqChanged := rfl

@[simp] theorem nextPc_gates : s.nextPc.gates = s.gates := rfl

@[simp] theorem nextPc_dac : s.nextPc.dac = s.dac := rfl

/-! ### `State.raise` -/

@[simp] theorem raise_cfg (c : Cause) : (s.raise c).cfg = s.cfg := rfl

@[simp] theorem raise_env (c : Cause) : (s.raise c).env = s.env := rfl

@[simp] theorem raise_millis (c : Cause) : (s.raise c).millis = s.millis := rfl

@[simp] theorem raise_tickPend (c : Cause) : (s.raise c).tickPend = s.tickPend := rfl

@[simp] theorem raise_task (c : Cause) : (s.raise c).task = s.task := rfl

@[simp] theorem raise_stepReg (c : Cause) : (s.raise c).stepReg = s.stepReg := rfl

@[simp] theorem raise_extLatch (c : Cause) : (s.raise c).extLatch = s.extLatch := rfl

@[simp] theorem raise_lastTick (c : Cause) : (s.raise c).lastTick = s.lastTick := rfl

@[simp] theorem raise_edge (c : Cause) : (s.raise c).edge = s.edge := rfl

@[simp] theorem raise_chg (c : Cause) : (s.raise c).chg = s.chg := rfl

@[simp] theorem raise_res (c : Cause) : (s.raise c).res = s.res := rfl

@[simp] theorem raise_fb (c : Cause) : (s.raise c).fb = s.fb := rfl

@[simp] theorem raise_lastV (c : Cause) : (s.raise c).lastV = s.lastV := rfl

@[simp] theorem raise_last (c : Cause) : (s.raise c).last = s.last := rfl

@[simp] theorem raise_tx (c : Cause) : (s.raise c).tx = s.tx := rfl

@[simp] theorem raise_pc (c : Cause) : (s.raise c).pc = s.pc := rfl

@[simp] theorem raise_halted (c : Cause) : (s.raise c).halted = true := rfl

@[simp] theorem raise_cause (c : Cause) : (s.raise c).cause = if s.halted then s.cause else c := rfl

@[simp] theorem raise_seqPtr (c : Cause) : (s.raise c).seqPtr = s.seqPtr := rfl

@[simp] theorem raise_presetPrev (c : Cause) : (s.raise c).presetPrev = s.presetPrev := rfl

@[simp] theorem raise_trigOut (c : Cause) : (s.raise c).trigOut = s.trigOut := rfl

@[simp] theorem raise_seqChanged (c : Cause) : (s.raise c).seqChanged = s.seqChanged := rfl

@[simp] theorem raise_gates (c : Cause) : (s.raise c).gates = s.gates := rfl

@[simp] theorem raise_dac (c : Cause) : (s.raise c).dac = s.dac := rfl

/-! ### `State.withEnv` -/

@[simp] theorem withEnv_cfg (e : Env) : (s.withEnv e).cfg = s.cfg := rfl

@[simp] theorem withEnv_env (e : Env) : (s.withEnv e).env = e := rfl

@[simp] theorem withEnv_millis (e : Env) : (s.withEnv e).millis = s.millis := rfl

@[simp] theorem withEnv_tickPend (e : Env) : (s.withEnv e).tickPend = s.tickPend := rfl

@[simp] theorem withEnv_task (e : Env) : (s.withEnv e).task = s.task := rfl

@[simp] theorem withEnv_stepReg (e : Env) : (s.withEnv e).stepReg = s.stepReg := rfl

@[simp] theorem withEnv_extLatch (e : Env) : (s.withEnv e).extLatch = s.extLatch := rfl

@[simp] theorem withEnv_lastTick (e : Env) : (s.withEnv e).lastTick = s.lastTick := rfl

@[simp] theorem withEnv_edge (e : Env) : (s.withEnv e).edge = s.edge := rfl

@[simp] theorem withEnv_chg (e : Env) : (s.withEnv e).chg = s.chg := rfl

@[simp] theorem withEnv_res (e : Env) : (s.withEnv e).res = s.res := rfl

@[simp] theorem withEnv_fb (e : Env) : (s.withEnv e).fb = s.fb := rfl

@[simp] theorem withEnv_lastV (e : Env) : (s.withEnv e).lastV = s.lastV := rfl

@[simp] theorem withEnv_last (e : Env) : (s.withEnv e).last = s.last := rfl

@[simp] theorem withEnv_tx (e : Env) : (s.withEnv e).tx = s.tx := rfl

@[simp] theorem withEnv_pc (e : Env) : (s.withEnv e).pc = s.pc := rfl

@[simp] theorem withEnv_halted (e : Env) : (s.withEnv e).halted = s.halted := rfl

@[simp] theorem withEnv_cause (e : Env) : (s.withEnv e).cause = s.cause := rfl

@[simp] theorem withEnv_seqPtr (e : Env) : (s.withEnv e).seqPtr = s.seqPtr := rfl

@[simp] theorem withEnv_presetPrev (e : Env) : (s.withEnv e).presetPrev = s.presetPrev := rfl

@[simp] theorem withEnv_trigOut (e : Env) : (s.withEnv e).trigOut = s.trigOut := rfl

@[simp] theorem withEnv_seqChanged (e : Env) : (s.withEnv e).seqChanged = s.seqChanged := rfl

@[simp] theorem withEnv_gates (e : Env) : (s.withEnv e).gates = s.gates := rfl

@[simp] theorem withEnv_dac (e : Env) : (s.withEnv e).dac = s.dac := rfl

/-! ### Using up a choice of the environment changes `env` only -/

@[simp] theorem turnTaken_eq : s.turnTaken = s.withEnv s.env.afterTurn := rfl

@[simp] theorem clkInSampled_eq : s.clkInSampled = s.withEnv s.env.afterClkIn := rfl

@[simp] theorem presetInSampled_eq : s.presetInSampled = s.withEnv s.env.afterPresetIn := rfl

@[simp] theorem busUsed_eq : s.busUsed = s.withEnv s.env.afterBus := rfl

@[simp] theorem haltTickUsed_eq : s.haltTickUsed = s.withEnv s.env.afterHaltTick := rfl

@[simp] theorem withEnv_withEnv (e e' : Env) : (s.withEnv e).withEnv e' = s.withEnv e' := rfl

end Sys2Proof.Machine
end

