-- ==== Sys2Proof/Laws/Ops.lean ====
section
/-! SUPPORT. What each shared operation can do, said once: commands and guards, effects, the active sequence, the environment, the step. -/

namespace Sys2Proof.Machine

/-! ### Effects -/

@[simp] theorem finish_writes (s : State) : (Effect.writes s).finish = s.nextPc := rfl

@[simp] theorem finish_faults (s : State) (c : Cause) :
    (Effect.faults s c).finish = s.raise c := rfl

/-- A finished command has moved `PC` on, or has raised a fault. -/
theorem finish_cases (e : Effect) :
    (e.raises = none ∧ e.finish = e.after.nextPc) ∨
      ∃ c, e.raises = some c ∧ e.finish = e.after.raise c := by
  cases h : e.raises <;> simp [Effect.finish, h]

/-! ### Commands under a guard -/

@[simp] theorem runCommand_false (rule : State → Except Fault Effect) (s : State) :
    runCommand false rule s = .next s.nextPc := rfl

@[simp] theorem runCommand_true_ok {rule : State → Except Fault Effect} {s : State} {e : Effect}
    (h : rule s = .ok e) : runCommand true rule s = .next e.finish := by
  simp [runCommand, h]

/-- A command that answers a next state was skipped by its guard, or its rule ran. -/
theorem runCommand_cases {holds : Bool} {rule : State → Except Fault Effect} {s t : State}
    (h : runCommand holds rule s = .next t) :
    (holds = false ∧ t = s.nextPc) ∨ (holds = true ∧ ∃ e, rule s = .ok e ∧ t = e.finish) := by
  cases holds with
  | false => exact .inl ⟨rfl, by simpa using h.symm⟩
  | true =>
    cases hr : rule s with
    | ok e => exact .inr ⟨rfl, e, rfl, by simpa [runCommand, hr] using h.symm⟩
    | error f => simp [runCommand, hr] at h

/-- A command stops only where its rule does. -/
theorem runCommand_fault {holds : Bool} {rule : State → Except Fault Effect} {s : State}
    {f : Fault} (h : runCommand holds rule s = .fault f) : holds = true ∧ rule s = .error f := by
  cases holds with
  | false => simp at h
  | true =>
    cases hr : rule s with
    | ok e => simp [runCommand, hr] at h
    | error f' => simpa [runCommand, hr] using h

@[simp] theorem guardHolds_always (s : State) : guardHolds .always s = true := rfl

@[simp] theorem guardHolds_chg (s : State) : guardHolds .chg s = s.chg := rfl

@[simp] theorem guardHolds_rise (s : State) : guardHolds .rise s = decide (s.edge = .rise) := rfl

/-! ### The active sequence -/

theorem withSeq_some {s : State} {q : Sequence} (h : s.seq? = some q) (rule : Sequence → Effect) :
    withSeq s rule = .ok (rule q) := by simp [withSeq, h]

/-- A command that reads `SEQ` and answers ran its rule on the active sequence. -/
theorem withSeq_ok {s : State} {rule : Sequence → Effect} {e : Effect}
    (h : withSeq s rule = .ok e) : ∃ q, s.seq? = some q ∧ e = rule q := by
  unfold withSeq at h
  split at h
  · next q hq => exact ⟨q, hq, by simpa using h.symm⟩
  · simp at h

/-- It stops only when `SEQ_PTR` is out of range (R61). -/
theorem withSeq_error {s : State} {rule : Sequence → Effect} {f : Fault}
    (h : withSeq s rule = .error f) : s.cfg.table.length ≤ s.seqPtr ∧ f = .noActiveSequence := by
  unfold withSeq at h
  split at h
  · simp at h
  · next hq => exact ⟨by simpa [State.seq?] using hq, by simpa using h.symm⟩

/-- With `SEQ_PTR` in range there is an active sequence (R61). -/
theorem seq?_of_lt {s : State} (h : s.seqPtr < s.cfg.table.length) : ∃ q, s.seq? = some q :=
  ⟨_, List.getElem?_eq_getElem h⟩

/-- The active sequence of a well-formed configuration is well formed (R8). -/
theorem seq?_wf {s : State} {q : Sequence} (hc : s.cfg.WF) (h : s.seq? = some q) : q.WF :=
  hc.2.1 q (List.mem_of_getElem? h)

/-! ### The environment -/

/-- A choice the environment has made is the one used (R49). -/
theorem turn_of_cons {s : State} {t : Turn} {ts : List Turn} (h : s.env.turns = t :: ts) :
    s.turn = t := by simp [State.turn, h]

theorem clkInLevel_of_cons {s : State} {l : Level} {ls : List Level} (h : s.env.clkIn = l :: ls) :
    s.clkInLevel = l := by simp [State.clkInLevel, h]

theorem presetInLevel_of_cons {s : State} {l : Level} {ls : List Level}
    (h : s.env.presetIn = l :: ls) : s.presetInLevel = l := by simp [State.presetInLevel, h]

theorem busOutcome_of_cons {s : State} {r : BusOutcome} {rs : List BusOutcome}
    (h : s.env.bus = r :: rs) : s.busOutcome = r := by simp [State.busOutcome, h]

/-! ### The step -/

/-- A step of a well-formed block is the step of the agent whose turn it is (R70). -/
theorem step_of_wf {s : State} (h : s.cfg.WF) : step s = agentStep s.turn s.turnTaken := if_pos h

/-- A step that answers a next state is one agent's (R70). -/
theorem step_cases {s t : State} (h : step s = .next t) :
    s.cfg.WF ∧
      ((s.turn = .main ∧ mainStep s.turnTaken = .next t) ∨
        (s.turn = .tick ∧ t = tickEvent s.turnTaken) ∨
        (s.turn = .tickLine ∧ t = tickRequest s.turnTaken)) := by
  by_cases hw : s.cfg.WF
  · rw [step_of_wf hw] at h
    refine ⟨hw, ?_⟩
    cases ht : s.turn <;> simp only [ht, agentStep] at h
    · exact .inl ⟨rfl, h⟩
    · exact .inr (.inl ⟨rfl, by simpa using h.symm⟩)
    · exact .inr (.inr ⟨rfl, by simpa using h.symm⟩)
  · simp [step, blockStep, hw] at h

/-- The main agent's step passes a halted block, halts on an illegal word, or runs a command (R229). -/
theorem mainStep_cases {s t : State} (h : mainStep s = .next t) :
    (s.halted = true ∧ t = s) ∨
      (s.halted = false ∧ ∃ w, s.fetchWord = some w ∧
        ((∃ e, decode w = .error e ∧ t = s.raise .illegalCommand) ∨
          ∃ i, decode w = .ok i ∧ exec i s = .next t)) := by
  unfold mainStep at h
  split at h
  · next hh => exact .inl ⟨hh, by simpa using h.symm⟩
  · next hh =>
    refine .inr ⟨by simpa using hh, ?_⟩
    split at h
    · next w hw =>
      refine ⟨w, hw, ?_⟩
      unfold runWord at h
      split at h
      · next e he => exact .inl ⟨e, he, by simpa using h.symm⟩
      · next i hi => exact .inr ⟨i, hi, h⟩
    · simp at h

/-- TICK of a running block counts or halts (R110, R111). -/
theorem tickRunning_cases (s : State) :
    (s.millis.toNat + 1 = 2 ^ 32 ∧ tickRunning s = s.raise .timeOverflow) ∨
      (s.millis.toNat + 1 < 2 ^ 32 ∧
        tickRunning s = { s with millis := s.millis + 1, tickPend := false }) := by
  have := s.millis.isLt
  unfold tickRunning timeLimit
  split
  · exact .inl ⟨by assumption, rfl⟩
  · exact .inr ⟨by omega, rfl⟩

/-! ### The program store -/

/-- The word placed for the next fetch is the word fetched (log entry 9). -/
theorem placeWord_get (prog : List Word) (n : Nat) (w : Word) : (placeWord prog n w)[n]? = some w := by
  have h : n < (prog ++ List.replicate (n + 1 - prog.length) w).length := by
    rw [List.length_append, List.length_replicate]; omega
  simp only [placeWord, List.getElem?_set, if_pos h, if_true]

theorem loadWord_fetch (s : State) (w : Word) : (s.loadWord w).fetchWord = some w :=
  placeWord_get ..

end Sys2Proof.Machine
end

