-- ==== Sys2Proof/Laws/Exec.lean ====
section
/-! SUPPORT. Every command as its guard and its rule, said once over all constructors. -/

namespace Sys2Proof.Machine

/-- The rule of each command: what `exec` runs when the guard holds. -/
def ruleOf : Instr → State → Except Fault Effect
  | .now _, s => .ok (.writes { s with res := s.millis })
  | .sched _ kind fireAt, s => .ok (.writes { s with task := schedule s.task kind fireAt })
  | .poll _, s => .ok (.writes (pollRule s))
  | .clkchk _, s => withSeq s fun q => .writes (clkchkRule q s)
  | .clkrst _, s => .ok (.writes { s with stepReg := 0 })
  | .trig _, s => trigRule s
  | .seqchk _, s => .ok (.writes (seqchkRule s))
  | .chgind _, s => .ok (.writes { s with seqChanged := levelOf s.chg })
  | .cmap _ p i role, s =>
    .ok (.writes { s with res := resAfterCmap (mapColor s.cfg (cmapSlot p i) role) })
  | .render _, s => withSeq s fun q =>
    .writes { s with fb := buildFrame s.cfg q s.stepReg.toNat (stepMatches q s.stepReg.toNat) }
  | .renderx _ cur m, s => withSeq s fun q =>
    .writes { s with fb := buildFrame s.cfg q cur.toNat m }
  | .write _, s => .ok (writeRule s)
  | .stepout _, s => withSeq s fun q => stepoutRule q s
  | .halt _, s => .ok (.faults s .softwareHalt)

/-- Every command is its rule under its guard (R86, R229). -/
theorem exec_eq (i : Instr) (s : State) :
    exec i s = runCommand (guardHolds i.guard s) (ruleOf i) s := by
  cases i <;> rfl

/-- A command that answers a next state was skipped by its guard, or its rule ran. -/
theorem exec_cases {i : Instr} {s t : State} (h : exec i s = .next t) :
    (guardHolds i.guard s = false ∧ t = s.nextPc) ∨
      (guardHolds i.guard s = true ∧ ∃ e, ruleOf i s = .ok e ∧ t = e.finish) :=
  runCommand_cases (exec_eq i s ▸ h)

/-- A command whose guard holds and whose rule answers ends in the finished effect. -/
theorem exec_of_rule {i : Instr} {s : State} {e : Effect} (hg : guardHolds i.guard s = true)
    (hr : ruleOf i s = .ok e) : exec i s = .next e.finish := by
  rw [exec_eq, hg, runCommand_true_ok hr]

end Sys2Proof.Machine
end

