-- ==== Sys2Proof/Laws/PerInstr.lean ====
section
/-! SUPPORT. A statement about every instruction as syntax: its word holds its opcode, its guard and a zero `z`. -/

namespace Sys2Proof.Laws.WordFields

/-- The word of a command has the opcode of its row in `op` (R87), its guard in `g` (R86) and 0 in the
reserved field `z` (R80). -/
def Statement (i : Instr) : Prop :=
  opField (encode i) = i.opcode.bits ∧ guardField (encode i) = i.guard.bits ∧
    zField (encode i) = 0

theorem now (g : Guard) : Statement (.now g) :=
  ⟨opField_packWord .., guardField_packWord .., zField_packWord ..⟩

theorem sched (g : Guard) (kind : TaskKind) (fireAt : Time) : Statement (.sched g kind fireAt) :=
  ⟨opField_packWord .., guardField_packWord .., zField_packWord ..⟩

theorem poll (g : Guard) : Statement (.poll g) :=
  ⟨opField_packWord .., guardField_packWord .., zField_packWord ..⟩

theorem clkchk (g : Guard) : Statement (.clkchk g) :=
  ⟨opField_packWord .., guardField_packWord .., zField_packWord ..⟩

theorem clkrst (g : Guard) : Statement (.clkrst g) :=
  ⟨opField_packWord .., guardField_packWord .., zField_packWord ..⟩

theorem trig (g : Guard) : Statement (.trig g) :=
  ⟨opField_packWord .., guardField_packWord .., zField_packWord ..⟩

theorem seqchk (g : Guard) : Statement (.seqchk g) :=
  ⟨opField_packWord .., guardField_packWord .., zField_packWord ..⟩

theorem chgind (g : Guard) : Statement (.chgind g) :=
  ⟨opField_packWord .., guardField_packWord .., zField_packWord ..⟩

theorem cmap (g : Guard) (p : Bool) (i : BitVec 4) (role : Role) : Statement (.cmap g p i role) :=
  ⟨opField_packWord .., guardField_packWord .., zField_packWord ..⟩

theorem render (g : Guard) : Statement (.render g) :=
  ⟨opField_packWord .., guardField_packWord .., zField_packWord ..⟩

theorem renderx (g : Guard) (cur : BitVec 3) (m : Bool) : Statement (.renderx g cur m) :=
  ⟨opField_packWord .., guardField_packWord .., zField_packWord ..⟩

theorem write (g : Guard) : Statement (.write g) :=
  ⟨opField_packWord .., guardField_packWord .., zField_packWord ..⟩

theorem stepout (g : Guard) : Statement (.stepout g) :=
  ⟨opField_packWord .., guardField_packWord .., zField_packWord ..⟩

theorem halt (g : Guard) : Statement (.halt g) :=
  ⟨opField_packWord .., guardField_packWord .., zField_packWord ..⟩

end Sys2Proof.Laws.WordFields
end

