-- ==== Sys2Proof/Laws/Rules.lean ====
section
/-! SUPPORT. What each rule and each shared function can do, said once: the tick agent, the scheduler, the clock, the trigger, the renderer, the step applier. -/

namespace Sys2Proof.Machine

/-! ### The tick agent -/

/-- The tick agent changes `MILLIS`, `TICK_PEND`, `HALTED`, `CAUSE` and the environment's choices at
most (R110, R115). -/
theorem tickEvent_frame (s : State) :
    tickEvent s = { s with
      env := (tickEvent s).env, millis := (tickEvent s).millis
      tickPend := (tickEvent s).tickPend, halted := (tickEvent s).halted
      cause := (tickEvent s).cause } := by
  unfold tickEvent tickHalted tickRunning
  split <;> split <;> rfl

/-- So does the tick line (R35). -/
theorem tickRequest_frame (s : State) :
    tickRequest s = { s with
      env := (tickRequest s).env, millis := (tickRequest s).millis
      tickPend := (tickRequest s).tickPend, halted := (tickRequest s).halted
      cause := (tickRequest s).cause } := by
  unfold tickRequest tickRunning
  dsimp only
  repeat' split
  all_goals rfl

/-- A TICK of a halted block counts or passes (R115). -/
theorem tickHalted_cases (s : State) :
    tickHalted s = s.haltTickUsed ∨
      (s.millis.toNat + 1 < 2 ^ 32 ∧
        tickHalted s = { s.haltTickUsed with millis := s.millis + 1 }) := by
  have hlt := s.millis.isLt
  unfold tickHalted timeLimit
  split
  · next h => exact .inr ⟨by have := h.2; omega, rfl⟩
  · exact .inl rfl

/-! ### The scheduler -/

theorem pollRule_empty {s : State} (h : s.task = .empty) : pollRule s = s := by
  cases s
  cases h
  rfl

theorem pollRule_due {s : State} {kind : TaskKind} {t : Time} (h : s.task = .pending kind t)
    (hd : t.toNat ≤ s.millis.toNat) : pollRule s = { s with task := .empty, trigOut := .low } := by
  cases kind
  simp [pollRule, pollSlot, h, hd, taskEffect]

theorem pollRule_early {s : State} {kind : TaskKind} {t : Time} (h : s.task = .pending kind t)
    (hd : s.millis.toNat < t.toNat) : pollRule s = s := by
  cases s
  cases h
  simp [pollRule, pollSlot, Nat.not_le.2 hd]

/-! ### The clock -/

/-- `Advance` stays inside the sequence (R130). -/
theorem advance_lt {step len : Nat} (h : 1 ≤ len) : advance step len < len := by
  unfold advance
  split <;> omega

/-- An advanced step fits the register (R23, R130). -/
theorem stepAfter_rise {step : BitVec 3} {len : Nat} (h : 1 ≤ len) (h8 : len ≤ 8) :
    (stepAfter step .rise len).toNat = advance step.toNat len := by
  have := advance_lt (step := step.toNat) h
  simp only [stepAfter, if_true, BitVec.toNat_ofNat]
  exact Nat.mod_eq_of_lt (by omega)

theorem stepAfter_keep {step : BitVec 3} {e : Edge} {len : Nat} (h : e ≠ .rise) :
    stepAfter step e len = step := if_neg h

/-! ### The trigger -/

/-- TRIG on a Rise faults, drives the output, or drives it and books the fall (R150). -/
theorem trigRise_cases (q : Sequence) (s : State) :
    (q.length ≤ s.stepReg.toNat ∧ trigRise q s = .faults s .invariantViolation) ∨
    (s.stepReg.toNat < q.length ∧ s.cfg.policy = .pulse ∧
      2 ^ 32 ≤ s.millis.toNat + s.cfg.delayTime ∧ trigRise q s = .faults s .timeOverflow) ∨
    (s.stepReg.toNat < q.length ∧ s.cfg.policy = .pulse ∧
      s.millis.toNat + s.cfg.delayTime < 2 ^ 32 ∧
      trigRise q s = .writes { s with
        trigOut := levelOf (active q s.stepReg.toNat)
        task := .pending .trigLow (BitVec.ofNat 32 (s.millis.toNat + s.cfg.delayTime)) }) ∨
    (s.stepReg.toNat < q.length ∧ s.cfg.policy ≠ .pulse ∧
      trigRise q s = .writes { s with trigOut := levelOf (active q s.stepReg.toNat) }) := by
  unfold trigRise timeLimit
  by_cases h1 : s.stepReg.toNat ≥ q.length
  · exact .inl ⟨h1, by simp [h1]⟩
  · by_cases h2 : s.cfg.policy = .pulse
    · by_cases h3 : s.millis.toNat + s.cfg.delayTime ≥ 2 ^ 32
      · exact .inr (.inl ⟨by omega, h2, h3, by simp only [h1, h2, h3, if_true, if_false]⟩)
      · refine .inr (.inr (.inl ⟨by omega, h2, by omega, ?_⟩))
        simp only [h1, h2, h3, if_true, if_false, schedule]
    · exact .inr (.inr (.inr ⟨by omega, h2, by simp only [h1, h2, if_false]⟩))

/-! ### The renderer -/

@[simp] theorem bitPlaces_length (o : BitOrder) : (bitPlaces o).length = 8 := by cases o <;> rfl

/-- The bus sends a packed byte as the eight bits it was packed from (R67 c, R201). -/
theorem bitPlaces_byteOf (o : BitOrder) (bits : List Bool) (h : bits.length = 8) :
    (bitPlaces o).map (fun j => (byteOf o bits).getLsbD j) = bits := by
  match bits, h with
  | [a, b, c, d, e, f, g, i], _ => cases o <;> revert a b c d e f g i <;> decide

@[simp] theorem buildFrame_length (c : Config) (q : Sequence) (cur : Nat) (m : Bool) :
    (buildFrame c q cur m).length = c.ledCount := by simp [buildFrame]

/-- Every LED of a frame has the colour of its position (R192). -/
theorem buildFrame_get {c : Config} {q : Sequence} {cur pos : Nat} {m : Bool}
    (h : pos < c.ledCount) : (buildFrame c q cur m)[pos]? = some (ledColor c q cur m pos) := by
  simp [buildFrame, h]

@[simp] theorem packBytes_length (o : BitOrder) (n : Nat) (bits : List Bool) :
    (packBytes o n bits).length = n := by
  induction n generalizing bits with
  | zero => rfl
  | succ n ih => simp [packBytes, ih]

/-- The buffer of a frame of any size (R200). -/
theorem serialize_length (c : Config) (f : Frame) :
    (serialize c f).length = bytesPerLed c * f.length + c.overhead := by simp [serialize]

/-- WRITE passes, transmits, or faults (R195, R197). -/
theorem writeRule_cases (s : State) :
    (s.frameSent ∧ writeRule s = .writes s) ∨
    (¬s.frameSent ∧ s.busOutcome = .ok ∧ writeRule s = .writes (transmitted s)) ∨
    (¬s.frameSent ∧ s.busOutcome = .fail ∧
      writeRule s = .faults s.busUsed .ledTransmitFailure) := by
  unfold writeRule
  by_cases h : s.frameSent
  · exact .inl ⟨h, if_pos h⟩
  · cases hb : s.busOutcome
    · exact .inr (.inl ⟨h, rfl, by rw [if_neg h]; rfl⟩)
    · exact .inr (.inr ⟨h, rfl, by rw [if_neg h]; rfl⟩)

/-- The next step is a `Transmit` exactly when the main agent of a running block moves next and the
word at `PC` is a WRITE whose guard holds and whose frame is not the last one transmitted (R195). -/
theorem transmits_iff (s : State) : s.transmits = true ↔
    s.turn = .main ∧ s.halted = false ∧ ∃ w g, s.fetchWord = some w ∧
      decode w = .ok (.write g) ∧ guardHolds g s = true ∧ ¬ s.frameSent := by
  constructor
  · intro h
    unfold State.transmits at h
    split at h
    · next g ht hh hf =>
      obtain ⟨w, hw, hd⟩ := Option.map_eq_some_iff.1 hf
      simp only [Bool.and_eq_true, Bool.not_eq_true', decide_eq_false_iff_not] at h
      exact ⟨ht, hh, w, g, hw, hd, h.1, h.2⟩
    · cases h
  · rintro ⟨ht, hh, w, g, hw, hd, hg, hn⟩
    simp only [State.transmits, ht, hh, hw, Option.map_some, hd, hg, Bool.true_and,
      Bool.not_eq_true', decide_eq_false_iff_not]
    exact hn

/-! ### The step applier -/

@[simp] theorem gatesAfter_length (count step value : Nat) :
    (gatesAfter count step value).length = count := by
  unfold gatesAfter
  split <;> simp

/-- STEPOUT faults or drives the DAC and the gates (R220). -/
theorem stepoutRule_cases (q : Sequence) (s : State) :
    ((q.length ≤ s.stepReg.toNat ∨
        (0 < intensityOrZero q s.stepReg.toNat ∧ s.cfg.gateCount ≤ s.stepReg.toNat)) ∧
      stepoutRule q s = .faults s .invariantViolation) ∨
    (s.stepReg.toNat < q.length ∧
      (intensityOrZero q s.stepReg.toNat = 0 ∨ s.stepReg.toNat < s.cfg.gateCount) ∧
      stepoutRule q s = .writes { s with
        dac := BitVec.ofNat 4 (intensityOrZero q s.stepReg.toNat)
        gates :=
          gatesAfter s.cfg.gateCount s.stepReg.toNat (intensityOrZero q s.stepReg.toNat) }) := by
  unfold stepoutRule
  by_cases h1 : s.stepReg.toNat ≥ q.length
  · exact .inl ⟨.inl h1, if_pos h1⟩
  · by_cases h2 : intensityOrZero q s.stepReg.toNat > 0 ∧ s.stepReg.toNat ≥ s.cfg.gateCount
    · exact .inl ⟨.inr h2, by simp only [h1, h2, and_self, if_true, if_false]⟩
    · exact .inr ⟨by omega, by omega, by simp only [h1, h2, if_false]⟩

end Sys2Proof.Machine
end

