-- ==== Sys2Proof/Tests/Slice0.lean ====
section
/-! SUPPORT. Tests of the model from the spec's own vectors (95_test_vectors.md), and a witness for the hypotheses of every statement. -/

namespace Sys2Proof.Tests

open Sys2Proof.Machine

/-! ### Helpers -/

/-- What a field is after an outcome that is a next state. -/
def after {α : Type} (o : Host.Outcome State Fault Refusal) (f : State → α) : Option α :=
  match o with
  | .next t => some (f t)
  | .fault _ => none
  | .refused _ => none

/-- The halt and its cause. -/
def halt (s : State) : Bool × Cause := (s.halted, s.cause)

/-- The sequence of 95_test_vectors.md sections 2.5 and 2.9. -/
def seqA : Sequence := ⟨4, [some 7, some 0, none, some 2, none, none, none, none]⟩

/-- The sequence of T120. -/
def seqB : Sequence := ⟨3, [some 1, some 0, some 15, none, none, none, none, none]⟩

/-- The settings of 95_test_vectors.md with one sequence `q`. -/
def cfgOf (q : Sequence) : Config := { sampleConfig with table := [q] }

/-- The reset state of a configuration. -/
def start (c : Config) : State := State.resetWith c

/-- A state of the reset configuration in which the main agent moves next and fetches `w`. -/
def fetching (w : Nat) : State := State.reset.withFetchWord 64 w

/-- A state in which the agents move next in the order of `ts`. -/
def scheduled (s : State) (ts : List Turn) : State := { s with env := { s.env with turns := ts } }

/-- A state whose next samples of `CLK_IN` are `ls`. -/
def clocked (s : State) (ls : List Level) : State := { s with env := { s.env with clkIn := ls } }

/-- A state whose next samples of `PRESET_IN` are `ls`. -/
def pressed (s : State) (ls : List Level) : State := { s with env := { s.env with presetIn := ls } }

/-- A state whose next `Transmit` has the outcome `r`. -/
def bussed (s : State) (r : BusOutcome) : State := { s with env := { s.env with bus := [r] } }

/-- A halted state. -/
def stopped (s : State) : State := { s with halted := true, cause := .softwareHalt }

/-- A state with the edge `e` and the step `n`. -/
def atStep (s : State) (e : Edge) (n : BitVec 3) : State := { s with edge := e, stepReg := n }

/-! ### Well-formedness, with an ill-formed term for each check -/

theorem test_wf_cmap_set : (Instr.cmap .always true 5 .default).WellFormed := by decide

/-- T21: CMAP with `p = 0`, `i = 5` is no command. -/
theorem test_wf_refuses_unset_intensity : ¬(Instr.cmap .always false 5 .default).WellFormed := by
  decide

theorem test_wf_sample_config : sampleConfig.WF := by decide

/-- Whether a configuration is refused (R8). -/
def refused (c : Config) : Bool := decide ¬c.WF

/-- R8, R7: one broken range each. -/
theorem test_wf_refuses_bad_configurations :
    refused (cfgOf { seqA with length := 0 }) ∧ refused (cfgOf { seqA with length := 9 }) ∧
      refused (cfgOf { seqA with slots := [some 7] }) ∧
      refused { sampleConfig with table := [] } ∧ refused { sampleConfig with ledCount := 0 } ∧
      refused { sampleConfig with expand := 0, pat0 := [], pat1 := [] } ∧
      refused { sampleConfig with pat0 := [true] } ∧
      refused { sampleConfig with pat1 := [true] } ∧
      refused { sampleConfig with extLatchReset := .rise } ∧
      refused { sampleConfig with prog := [] } := by decide

/-! ### Decoding: words written out from the spec's encoding (30_encoding.md, T1 to T24) -/

/-- T1, T2. -/
theorem test_decode_now : decodeTableWord 64 0x0100000000000000 = some (.now .always) ∧
    decodeTableWord 64 0x0180000000000000 = some (.now .rise) := by decide

/-- T3, T4: `imm` is unsigned. -/
theorem test_decode_sched :
    decodeTableWord 64 0x10010000000003E8 = some (.sched .always .trigLow 1000) ∧
      decodeTableWord 64 0x10810000FFFFFFFF = some (.sched .rise .trigLow 4294967295) := by decide

/-- R121. -/
theorem test_decode_poll : decodeTableWord 64 0x1100000000000000 = some (.poll .always) := by decide

/-- R134. -/
theorem test_decode_clkchk : decodeTableWord 64 0x2000000000000000 = some (.clkchk .always) := by
  decide

/-- R97. -/
theorem test_decode_clkrst : decodeTableWord 64 0x2140000000000000 = some (.clkrst .chg) := by decide

/-- R150. -/
theorem test_decode_trig : decodeTableWord 64 0x3000000000000000 = some (.trig .always) := by decide

/-- R160. -/
theorem test_decode_seqchk : decodeTableWord 64 0x4000000000000000 = some (.seqchk .always) := by
  decide

/-- R161. -/
theorem test_decode_chgind : decodeTableWord 64 0x4100000000000000 = some (.chgind .always) := by
  decide

/-- T7, T8, T9. -/
theorem test_decode_cmap :
    decodeTableWord 64 0x5001001500000000 = some (.cmap .always true 5 .curMatch) ∧
      decodeTableWord 64 0x5002001F00000000 = some (.cmap .always true 15 .curUnmatch) ∧
      decodeTableWord 64 0x5000000000000000 = some (.cmap .always false 0 .default) := by decide

/-- R226, word 3. -/
theorem test_decode_render : decodeTableWord 64 0x6040000000000000 = some (.render .chg) := by decide

/-- T5, T6. -/
theorem test_decode_renderx :
    decodeTableWord 64 0x6100000B00000000 = some (.renderx .always 3 true) ∧
      decodeTableWord 64 0x6100000700000000 = some (.renderx .always 7 false) := by decide

/-- R226, word 10. -/
theorem test_decode_write : decodeTableWord 64 0x6280000000000000 = some (.write .rise) := by decide

/-- R226, word 8. -/
theorem test_decode_stepout : decodeTableWord 64 0x7080000000000000 = some (.stepout .rise) := by
  decide

/-- T10. -/
theorem test_decode_halt : decodeTableWord 64 0x7F80000000000000 = some (.halt .rise) := by decide

/-- T11 to T16, each by the check that R85 meets first. -/
theorem test_decode_reserved_words :
    decode 0x0000000000000000 = .error .reservedOpcode ∧
      decode 0x0200000000000000 = .error .reservedOpcode ∧
      decode 0xFF00000000000000 = .error .reservedOpcode ∧
      decode 0x0110000000000000 = .error .reservedZ ∧
      decode 0x01C0000000000000 = .error .reservedGuard ∧
      decode 0x0100000000000001 = .error .mustBeZero := by decide

/-- T17 to T24. -/
theorem test_decode_reserved_operands :
    decode 0x1000000000000005 = .error .reservedKind ∧
      decode 0x1002000000000005 = .error .reservedKind ∧
      decode 0x1001000100000005 = .error .mustBeZero ∧
      decode 0x5003000000000000 = .error .reservedRole ∧
      decode 0x5000000500000000 = .error .unsetIntensity ∧
      decode 0x5004001000000000 = .error .mustBeZero ∧
      decode 0x6100001000000000 = .error .mustBeZero ∧
      decode 0x6101000000000000 = .error .mustBeZero := by decide

/-- R226: the canonical loop's words. -/
theorem test_encode_iter : pseudoIter.map encode = iterWords := by decide

/-- R97: the four examples, as the assembler writes them. -/
theorem test_text :
    (Instr.clkrst .chg).text = "CLKRST ?CHG" ∧
      (Instr.sched .always .trigLow 1000).text = "SCHED TrigLow, 1000" ∧
      (Instr.renderx .always 3 true).text = "RENDERX 3, 1" ∧
      (Instr.cmap .always true 5 .curMatch).text = "CMAP 1, 5, curm" := by
  refine ⟨?_, ?_, ?_, ?_⟩ <;> decide

/-! ### The step -/

/-- T25: a false guard leaves all but `PC`. -/
theorem test_step_false_guard :
    after (step (fetching 0x7080000000000000)) (fun t => (t.pc, t.dac, t.halted)) =
      some (1, 0, false) := by decide

/-- T26: an illegal word beats a false guard. -/
theorem test_step_illegal :
    after (step (fetching 0x0140000000000001)) (fun t => (halt t, t.pc)) =
      some ((true, .illegalCommand), 0) := by decide

/-- T27: `PC` wraps after the last word. -/
theorem test_step_wrap :
    after (exec (.now .always) { State.reset with pc := 10 }) State.pc = some 0 := by decide

/-! ### The timer: T32, T33, T34, T36 -/

theorem test_tick_top :
    (tickEvent { State.reset with millis := 4294967294 }).millis = 4294967295 ∧
      halt (tickEvent { State.reset with millis := 4294967295 }) = (true, .timeOverflow) := by decide

theorem test_now : after (exec (.now .always) { State.reset with millis := 1000 }) State.res =
    some 0x000003E8 := by decide

/-! ### The scheduler: T41 to T47 -/

theorem test_sched_overwrites :
    after (exec (.sched .always .trigLow 20) { State.reset with task := .pending .trigLow 1000 })
      State.task = some (.pending .trigLow 20) := by decide

theorem test_poll_due :
    after (exec (.poll .always)
      { State.reset with task := .pending .trigLow 1000, trigOut := .high, millis := 1000 })
      (fun t => (t.task, t.trigOut)) = some (.empty, .low) := by decide

theorem test_poll_early :
    after (exec (.poll .always)
      { State.reset with task := .pending .trigLow 1000, trigOut := .high, millis := 999 })
      (fun t => (t.task, t.trigOut)) = some (.pending .trigLow 1000, .high) := by decide

/-! ### The clock: T60, T68, T76, T78, T84 -/

theorem test_clkchk_external :
    after (exec (.clkchk .always) (clocked State.reset [.high]))
      (fun t => (t.edge, t.extLatch, t.stepReg, t.res)) = some (.rise, .rise, 1, 0x00000101) ∧
    after (exec (.clkchk .always)
      { clocked (start (cfgOf seqB)) [.high] with extLatch := .fall, stepReg := 5 })
      (fun t => (t.edge, t.extLatch, t.stepReg, t.res)) = some (.rise, .rise, 0, 0x00000001) := by
  decide

theorem test_clkchk_internal :
    after (exec (.clkchk .always)
      { start { sampleConfig with clkVariant := .internal } with millis := 263 })
      (fun t => (t.edge, t.lastTick, t.stepReg)) = some (.rise, 263, 1) ∧
    after (exec (.clkchk .always)
      { start { sampleConfig with clkVariant := .internal } with
        millis := 255, lastTick := 250, stepReg := 1 })
      (fun t => (t.edge, t.lastTick, t.stepReg)) = some (.fall, 250, 1) := by decide

theorem test_clkrst :
    after (exec (.clkrst .always)
      { atStep State.reset .rise 5 with extLatch := .rise, lastTick := 250 })
      (fun t => (t.stepReg, t.edge, t.extLatch, t.lastTick)) = some (0, .rise, .rise, 250) := by
  decide

/-! ### The trigger: T92, T98, T103 to T105 -/

theorem test_trig_absent_and_pulse :
    after (exec (.trig .always)
      { atStep (start (cfgOf seqA)) .rise 2 with trigOut := .high }) State.trigOut = some .low ∧
    after (exec (.trig .always)
      { atStep (start { cfgOf seqA with policy := .pulse }) .rise 0 with millis := 1000 })
      (fun t => (t.trigOut, t.task)) = some (.high, .pending .trigLow 1010) := by decide

theorem test_trig_faults :
    after (exec (.trig .always) (atStep (start (cfgOf seqA)) .rise 4)) halt =
      some (true, .invariantViolation) ∧
    after (exec (.trig .always)
      { atStep (start { cfgOf seqA with policy := .pulse }) .rise 0 with millis := 4294967290 })
      (fun t => (halt t, t.trigOut, t.task)) = some ((true, .timeOverflow), .low, .empty) ∧
    after (exec (.trig .always)
      { atStep (start { cfgOf seqA with policy := .pulse }) .rise 0 with millis := 4294967285 })
      State.task = some (.pending .trigLow 4294967295) := by decide

/-! ### The sequence controller: T113, T114, T111, T116 -/

theorem test_seqchk :
    after (exec (.seqchk .always)
      { pressed (start { sampleConfig with table := [seqA, seqB, seqA] }) [.high] with
        presetPrev := .low, seqPtr := 2 })
      (fun t => (t.chg, t.seqPtr, t.presetPrev, t.res)) = some (true, 0, .high, 0x00000001) ∧
    after (exec (.seqchk .always)
      (pressed (start { sampleConfig with table := [seqA, seqB, seqA] }) [.low]))
      (fun t => (t.chg, t.seqPtr, t.presetPrev, t.res)) = some (false, 0, .low, 0) := by decide

theorem test_chgind :
    after (exec (.chgind .always) { State.reset with chg := true }) State.seqChanged = some .high ∧
    after (exec (.chgind .always) { State.reset with seqChanged := .high }) State.seqChanged =
      some .low := by decide

/-! ### The colour mapper: T50, T54 -/

theorem test_hsv_boundaries :
    [0, 42, 43, 84, 85, 127, 128, 169, 170, 212, 213, 254, 255].map (hsv2rgb · 128 200) =
      [⟨200, 99, 99⟩, ⟨200, 199, 99⟩, ⟨199, 200, 99⟩, ⟨102, 200, 99⟩, ⟨99, 200, 99⟩,
        ⟨99, 200, 199⟩, ⟨99, 199, 200⟩, ⟨99, 102, 200⟩, ⟨99, 99, 200⟩, ⟨199, 99, 200⟩,
        ⟨200, 99, 199⟩, ⟨200, 99, 102⟩, ⟨200, 99, 99⟩] := by decide

theorem test_cmap :
    after (exec (.cmap .always true 13 .curMatch) State.reset) State.res = some 0x00FF00CC ∧
    after (exec (.cmap .always true 8 .curUnmatch) State.reset) State.res = some 0x00006680 ∧
    after (exec (.cmap .always true 15 .default) State.reset) State.res = some 0x00400000 ∧
    colorBits (mapColor sampleConfig (some 13) .curMatch) = 0xFF00CC := by decide

/-! ### The renderer: T120, T122, T125, T132, T134, T135 -/

theorem test_render :
    after (exec (.render .always)
      { start { cfgOf seqB with ledCount := 4 } with stepReg := 1 }) State.fb =
      some [⟨64, 25, 0⟩, ⟨128, 0, 0⟩, ⟨64, 0, 0⟩, ⟨0, 0, 0⟩] ∧
    after (exec (.render .always)
      { start { cfgOf seqB with ledCount := 4 } with stepReg := 5 }) State.fb =
      some [⟨64, 25, 0⟩, ⟨64, 0, 0⟩, ⟨64, 0, 0⟩, ⟨0, 0, 0⟩] := by decide

theorem test_renderx :
    after (exec (.renderx .always 1 true) (start { cfgOf seqB with ledCount := 4 })) State.fb =
      some [⟨64, 25, 0⟩, ⟨255, 0, 0⟩, ⟨64, 0, 0⟩, ⟨0, 0, 0⟩] := by decide

theorem test_write_diffs :
    after (exec (.write .always)
      { bussed (start { cfgOf seqB with ledCount := 1, overhead := 0 }) .ok with
        fb := [⟨1, 0, 1⟩], lastV := true, last := [⟨1, 0, 0⟩] })
      (fun t => (t.tx.length, t.lastV, t.last)) = some (1, true, [⟨1, 0, 1⟩]) ∧
    after (exec (.write .always)
      { bussed (start { cfgOf seqB with ledCount := 1, overhead := 0 }) .fail with
        fb := [⟨1, 0, 1⟩], lastV := true, last := [⟨1, 0, 1⟩] })
      (fun t => (t.tx.length, halt t)) = some (0, (false, .none)) := by decide

theorem test_write_fails :
    after (exec (.write .always) (bussed (start { cfgOf seqB with ledCount := 1 }) .fail))
      (fun t => (halt t, t.tx, t.lastV, t.pc)) =
      some ((true, .ledTransmitFailure), [], false, 0) := by decide

/-- T143, T144, T145 (R204): one LED `(0xA5, 0x3C, 0x01)`. -/
theorem test_serialize :
    serialize { sampleConfig with overhead := 1 } [⟨0xA5, 0x3C, 0x01⟩] =
      [0x88, 0xEE, 0xEE, 0x88, 0xE8, 0xE8, 0x8E, 0x8E, 0x88, 0x88, 0x88, 0x8E, 0x00] ∧
    serialize { sampleConfig with
        overhead := 0, expand := 3, pat0 := [true, false, false], pat1 := [true, true, false] }
        [⟨0xA5, 0x3C, 0x01⟩] =
      [0x93, 0x6D, 0xA4, 0xD3, 0x49, 0xA6, 0x92, 0x49, 0x26] ∧
    serialize { sampleConfig with overhead := 1, colorOrder := .rgb } [⟨0xA5, 0x3C, 0x01⟩] =
      [0xE8, 0xE8, 0x8E, 0x8E, 0x88, 0xEE, 0xEE, 0x88, 0x88, 0x88, 0x88, 0x8E, 0x00] := by decide

/-- R67 (c), (d): both bit orders, by hand. `0x80` holds its 1 in bit 7, which goes first or last; a run
`10000000` stands in bit 7 or in bit 0 of its byte. -/
theorem test_bit_orders :
    byteBits { sampleConfig with pat0 := [false], pat1 := [true] } 0x80 =
      [true, false, false, false, false, false, false, false] ∧
    byteBits { sampleConfig with pat0 := [false], pat1 := [true], dataBitOrder := .lsbFirst } 0x80 =
      [false, false, false, false, false, false, false, true] ∧
    byteOf .msbFirst [true, false, false, false, false, false, false, false] = 0x80 ∧
    byteOf .lsbFirst [true, false, false, false, false, false, false, false] = 0x01 := by decide

/-! ### The step applier and HALT: T150, T152, T155, T156, T160 -/

theorem test_stepout :
    after (exec (.stepout .always) { start (cfgOf seqA) with stepReg := 3 })
      (fun t => (t.dac, t.gates)) =
      some (0b0010, [.low, .low, .low, .high, .low, .low, .low, .low]) ∧
    after (exec (.stepout .always)
      { start { cfgOf seqA with gateCount := 2 } with stepReg := 1, dac := 7 })
      (fun t => (t.dac, t.gates)) = some (0, [.low, .low]) := by decide

theorem test_stepout_faults :
    after (exec (.stepout .always) { start (cfgOf seqA) with stepReg := 4, dac := 7 })
      (fun t => (halt t, t.dac)) = some ((true, .invariantViolation), 7) ∧
    after (exec (.stepout .always)
      { start { cfgOf seqA with gateCount := 2 } with stepReg := 3, dac := 7 })
      (fun t => (halt t, t.dac)) = some ((true, .invariantViolation), 7) := by decide

theorem test_halt :
    after (exec (.halt .always) { State.reset with pc := 4 }) (fun t => (halt t, t.pc)) =
      some ((true, .softwareHalt), 4) := by decide

/-! ### Witnesses: a state and operands that meet the hypotheses of each statement -/

/-- The command NOW, fetched after reset. -/
abbrev nowWord : Nat := 0x0100000000000000

/-- A state whose `CLK_IN`, `PRESET_IN` and bus outcomes are chosen. -/
def driven : State := bussed (pressed (clocked (start (cfgOf seqA)) [.high, .high]) [.high]) .ok

/-- An Internal clock with `INTERVAL = 250`, `HOLD_TIME = 5`, at the time `t`. -/
def internalAt (t : Time) : State :=
  { start { cfgOf seqA with clkVariant := .internal } with millis := t }

/-- A state at another time. -/
def timed (s : State) (t : Time) : State := { s with millis := t }

/-- A state with another slot of the scheduler. -/
def booked (s : State) (t : TaskSlot) : State := { s with task := t }

/-- A state with a held tick. -/
def held (s : State) : State := { s with tickPend := true }

/-- A state with another last recognised edge. -/
def latched (s : State) (e : Edge) : State := { s with extLatch := e }

/-- A state with another preset level seen last. -/
def previously (s : State) (l : Level) : State := { s with presetPrev := l }

/-- A state with another step. -/
def stepped (s : State) (n : BitVec 3) : State := { s with stepReg := n }

/-- A state whose frame has been transmitted. -/
def shown (s : State) : State :=
  { s with lastV := true, last := s.fb, tx := [serialize s.cfg s.fb] }

/-- A state in which the next TICK of a halted block counts, or does not. -/
def counting (s : State) (b : Bool) : State :=
  { s with env := { s.env with haltTick := [b] } }

/-- A state of a block with `n` gates. -/
def gated (n : Nat) (step : BitVec 3) : State :=
  stepped (start { cfgOf seqA with gateCount := n }) step

/-- A machine under the Pulse policy with `DELAY_TIME = 10`, at the time `t`, on a Rise at step `n`. -/
def pulsing (n : BitVec 3) (t : Time) : State :=
  { atStep (start { cfgOf seqA with policy := .pulse }) .rise n with millis := t }

theorem witness_EncodeThenDecode :
    (Instr.cmap .rise true 15 .curUnmatch).WellFormed ∧
      (Instr.cmap .chg false 0 .default).WellFormed ∧ (Instr.renderx .chg 7 true).WellFormed := by
  decide

theorem witness_DecodeThenEncode :
    decode 0x5002001F00000000 = .ok (.cmap .always true 15 .curUnmatch) := by decide

theorem witness_ReservedOpcodeHalts :
    (fetching 0).Fetches 0 ∧ ∀ o : Opcode, opField 0 ≠ o.bits :=
  ⟨by decide, by intro o; cases o <;> decide⟩

theorem witness_MustBeZeroFieldsHalt :
    ((fetching 0x0110000000000000).Fetches 0x0110000000000000 ∧
      zField 0x0110000000000000 ≠ 0) ∧
    ((fetching 0x0100000000000001).Fetches 0x0100000000000001 ∧
      opField 0x0100000000000001 = Opcode.now.bits ∧
      0x0100000000000001 &&& Opcode.now.mask ≠ Opcode.now.pattern) ∧
    decode 0x0100000000000000 = .ok (.now .always) := by decide

theorem witness_ReservedOperandsHalt :
    ((fetching 0x01C0000000000000).Fetches 0x01C0000000000000 ∧
      guardField 0x01C0000000000000 = 3) ∧
    ((fetching 0x1002000000000005).Fetches 0x1002000000000005 ∧
      opField 0x1002000000000005 = 0x10 ∧ kField 0x1002000000000005 ≠ 1) ∧
    ((fetching 0x5003000000000000).Fetches 0x5003000000000000 ∧
      opField 0x5003000000000000 = 0x50 ∧ (kField 0x5003000000000000).extractLsb' 0 2 = 3) ∧
    ((fetching 0x5000000100000000).Fetches 0x5000000100000000 ∧
      opField 0x5000000100000000 = 0x50 ∧ (aField 0x5000000100000000).getLsbD 4 = false ∧
      (aField 0x5000000100000000).extractLsb' 0 4 ≠ 0) :=
  ⟨by decide, by decide, by decide, by decide⟩

theorem witness_StepRunsDecodedCommand :
    (fetching nowWord).Fetches 0x0100000000000000 ∧
      decode 0x0100000000000000 = .ok (.now .always) := by decide

/-- Also the witness of the second clause of `FalseGuardOnlyAdvancesPc`. -/
theorem witness_MainStepFetchesDecodesAndGuards :
    ((fetching 0).Fetches 0 ∧ decode 0 = .error .reservedOpcode) ∧
    guardHolds (Instr.now .chg).guard State.reset = false ∧
    (guardHolds (Instr.now .always).guard State.reset = true ∧ State.reset.halted = false ∧
      ∃ t, exec (.now .always) State.reset = .next t) ∧
    (guardHolds (Instr.halt .always).guard State.reset = true ∧
      ∃ t, exec (.halt .always) State.reset = .next t ∧ t.halted = true) ∧
    ((scheduled (stopped State.reset) [.main]).cfg.WF ∧
      (scheduled (stopped State.reset) [.main]).halted = true ∧
      (scheduled (stopped State.reset) [.main]).turn = .main) :=
  ⟨by decide, by decide, ⟨rfl, rfl, _, rfl⟩, ⟨rfl, _, rfl, rfl⟩, by decide⟩

theorem witness_FalseGuardOnlyAdvancesPc :
    guardHolds (Instr.stepout .rise).guard { State.reset with edge := .fall } = false := by decide

/-- Also the witness of the second clause of `CausesBelongToTheirCommands`: one command for each cause. -/
theorem witness_FaultsArePrecise :
    (∃ t, exec (.now .always) State.reset = .next t ∧ t.halted = false) ∧
    (∃ t, exec (.trig .always) (pulsing 4 0) = .next t ∧ t.cause = .invariantViolation) ∧
    (∃ t, exec (.stepout .always) (pulsing 4 0) = .next t ∧ t.cause = .invariantViolation) ∧
    (∃ t, exec (.trig .always) (pulsing 0 4294967290) = .next t ∧ t.cause = .timeOverflow) ∧
    (∃ t, exec (.write .always) (bussed State.reset .fail) = .next t ∧
      t.cause = .ledTransmitFailure) ∧
    (∃ t, exec (.halt .always) State.reset = .next t ∧ t.cause = .softwareHalt) :=
  ⟨⟨_, rfl, by decide⟩, ⟨_, rfl, by decide⟩, ⟨_, rfl, by decide⟩, ⟨_, rfl, by decide⟩,
    ⟨_, rfl, by decide⟩, ⟨_, rfl, by decide⟩⟩

/-- A WRITE after reset whose `Transmit` has the outcome `r`. -/
def writing (r : BusOutcome) : State := bussed (fetching 0x6200000000000000) r

/-- R253: a transmission that succeeds under `BusInfallible`, and one that fails. -/
theorem witness_CausesBelongToTheirCommands :
    ((writing .ok).BusInfallible 1 ∧ (writing .ok).transmits = true ∧
      (writing .ok).cause ≠ .ledTransmitFailure ∧
      ∃ t, Sys2Proof.core.run 1 (writing .ok) = .next t ∧ t.tx.length = 1) ∧
    ((writing .fail).cfg.WF ∧ (writing .fail).transmits = true ∧
      (writing .fail).transmitOutcome = .fail) :=
  ⟨⟨⟨fun _ => rfl, fun _ _ => trivial⟩, by decide, by decide, _, rfl, by decide⟩, by decide⟩

theorem witness_TickAddsOneOrHaltsAtTheTop :
    (∃ s : State, s.cfg.WF ∧ s.turn = .tick ∧ s.halted = false ∧
      s.millis.toNat = 2 ^ 32 - 2) ∧
    (∃ s : State, s.cfg.WF ∧ s.turn = .tick ∧ s.halted = false ∧
      s.millis.toNat = 2 ^ 32 - 1) ∧
    (∃ s : State, s.cfg.WF ∧ s.turn = .tick ∧ s.halted = true) :=
  ⟨⟨scheduled (timed State.reset 4294967294) [.tick], by decide⟩,
    ⟨scheduled (timed State.reset 4294967295) [.tick], by decide⟩,
    ⟨scheduled (stopped State.reset) [.tick], by decide⟩⟩

theorem witness_HeldTickIsServedOnce :
    (∃ s : State, s.cfg.WF ∧ s.halted = false ∧ s.turn = .tickLine ∧ s.tickPend = false) ∧
    (∃ s : State, s.cfg.WF ∧ s.halted = false ∧ s.turn = .tickLine ∧ s.tickPend = true ∧
      s.millis.toNat = 2 ^ 32 - 2) ∧
    (∃ s : State, s.cfg.WF ∧ s.halted = false ∧ s.turn = .tickLine ∧ s.tickPend = true ∧
      s.millis.toNat = 2 ^ 32 - 1) ∧
    (∃ t u, step (scheduled State.reset [.tickLine, .tick]) = .next t ∧ step t = .next u ∧
      t.tickPend = true ∧ u.tickPend = false) :=
  ⟨⟨scheduled State.reset [.tickLine], by decide⟩,
    ⟨scheduled (held (timed State.reset 4294967294)) [.tickLine], by decide⟩,
    ⟨scheduled (held (timed State.reset 4294967295)) [.tickLine], by decide⟩,
    _, _, rfl, rfl, rfl, rfl⟩

theorem witness_MillisNeverDecreases :
    (∃ t, step (scheduled State.reset [.tick]) = .next t ∧ t.millis = 1) ∧
    (∃ t, step (scheduled State.reset [.main]) = .next t ∧
      (scheduled State.reset [.main]).turn = .main) ∧
    ∃ t, Sys2Proof.core.run 2 (scheduled State.reset [.tick, .tickLine]) = .next t :=
  ⟨⟨_, rfl, by decide⟩, ⟨_, rfl, rfl⟩, _, rfl⟩

/-- Also the witness of SCHED, CLKRST, CHGIND, CMAP and HALT, whose statements ask for the guard only
(and, for HALT, a running block): each of the three guards holds somewhere. -/
theorem witness_NowReturnsMillis :
    guardHolds .always State.reset = true ∧ State.reset.halted = false ∧
      guardHolds .chg { State.reset with chg := true } = true ∧
      guardHolds .rise { State.reset with edge := .rise } = true := by decide

theorem witness_PollFiresADueTask :
    (∃ s : State, s.task = .pending .trigLow 1000 ∧ s.millis.toNat = (1000 : Time).toNat) ∧
    (∃ s : State, s.task = .pending .trigLow 4294967295 ∧
      s.millis.toNat + 1 = (4294967295 : Time).toNat) ∧
    State.reset.task = .empty :=
  ⟨⟨timed (booked State.reset (.pending .trigLow 1000)) 1000, by decide⟩,
    ⟨timed (booked State.reset (.pending .trigLow 4294967295)) 4294967294, by decide⟩, rfl⟩

theorem witness_ScheduledTaskFiresOnce :
    ∃ t u v w, exec (.sched .always .trigLow 5) State.reset = .next t ∧
      exec (.sched .always .trigLow 8) t = .next u ∧
      exec (.poll .always) { u with millis := 8, trigOut := .high } = .next v ∧
      exec (.poll .always) { v with millis := 9, trigOut := .high } = .next w ∧
      v.trigOut = .low ∧ w.trigOut = .high :=
  ⟨_, _, _, _, rfl, rfl, rfl, rfl, by decide, by decide⟩

/-- V1: the last step of a sequence, the one before it, a sequence of length 1, a step left over. -/
theorem witness_AdvanceKeepsTheStepInRange_boundaries :
    advance 7 8 = 0 ∧ advance 6 8 = 7 ∧ advance 0 1 = 0 ∧ advance 5 3 = 0 := by decide

theorem witness_ClkchkClassifiesPerVariant_external :
    guardHolds .always driven = true ∧ driven.cfg.WF ∧ driven.cfg.clkVariant = .external ∧
      driven.seq? = some seqA ∧ driven.clkInLevel = .high ∧ driven.extLatch ≠ .rise ∧
      ((latched (clocked driven [.low]) .rise).clkInLevel = .low ∧
        (latched (clocked driven [.low]) .rise).extLatch ≠ .fall) ∧
      ((latched driven .rise).clkInLevel = .high ∧ (latched driven .rise).extLatch = .rise) ∧
      ((latched (clocked driven [.low]) .fall).clkInLevel = .low ∧
        (latched (clocked driven [.low]) .fall).extLatch = .fall) := by decide

/-- T74, T75, T72: the boundaries of `INTERVAL` and `HOLD_TIME`. -/
theorem witness_ClkchkClassifiesPerVariant_internal :
    (internalAt 250).cfg.WF ∧ (internalAt 250).cfg.clkVariant = .internal ∧
      (internalAt 250).seq? = some seqA ∧
      (internalAt 250).lastTick.toNat + (internalAt 250).cfg.interval ≤
        (internalAt 250).millis.toNat ∧
      ((internalAt 249).millis.toNat <
          (internalAt 249).lastTick.toNat + (internalAt 249).cfg.interval ∧
        (internalAt 5).lastTick.toNat + (internalAt 5).cfg.holdTime ≤
          (internalAt 5).millis.toNat) ∧
      ((internalAt 4).millis.toNat < (internalAt 4).lastTick.toNat + (internalAt 4).cfg.interval ∧
        (internalAt 4).millis.toNat <
          (internalAt 4).lastTick.toNat + (internalAt 4).cfg.holdTime) := by decide

theorem witness_AdvanceKeepsTheStepInRange :
    (stepped driven 7).cfg.WF ∧ (stepped driven 7).seq? = some seqA ∧
      ∃ t, exec (.clkchk .always) (stepped driven 7) = .next t ∧ t.edge = .rise :=
  ⟨by decide, by decide, _, rfl, by decide⟩

theorem witness_SameLevelNeverRisesTwice :
    driven.cfg.clkVariant = .external ∧ driven.env.clkIn = [.high, .high] ∧
      ∃ t u, exec (.clkchk .always) driven = .next t ∧ exec (.clkchk .always) t = .next u ∧
        t.edge = .rise :=
  ⟨rfl, rfl, _, _, rfl, rfl, by decide⟩

theorem witness_TrigFollowsItsRule :
    (∃ s : State, s.edge = .rise ∧ s.seq? = some seqA ∧ s.stepReg.toNat < seqA.length ∧
      s.cfg.policy ≠ .pulse) ∧
    ((pulsing 3 4294967285).edge = .rise ∧ (pulsing 3 4294967285).seq? = some seqA ∧
      (pulsing 3 4294967285).stepReg.toNat < seqA.length ∧
      (pulsing 3 4294967285).cfg.policy = .pulse ∧
      (pulsing 3 4294967285).millis.toNat + (pulsing 3 4294967285).cfg.delayTime < 2 ^ 32) ∧
    ((atStep (start (cfgOf seqA)) .fall 0).edge = .fall ∧
      (atStep (start (cfgOf seqA)) .fall 0).cfg.policy = .follow) ∧
    (start { cfgOf seqA with policy := .hold }).cfg.policy ≠ .follow ∧
    (start (cfgOf seqA)).edge = .unchanged :=
  ⟨⟨atStep (start (cfgOf seqA)) .rise 3, by decide⟩, by decide, by decide, by decide, by decide⟩

theorem witness_TrigFollowsItsRule_faults :
    ((pulsing 4 0).halted = false ∧ (pulsing 4 0).edge = .rise ∧
      (pulsing 4 0).seq? = some seqA ∧ seqA.length ≤ (pulsing 4 0).stepReg.toNat) ∧
    ((pulsing 3 4294967286).halted = false ∧ (pulsing 3 4294967286).edge = .rise ∧
      (pulsing 3 4294967286).stepReg.toNat < seqA.length ∧
      (pulsing 3 4294967286).cfg.policy = .pulse ∧
      2 ^ 32 ≤ (pulsing 3 4294967286).millis.toNat + (pulsing 3 4294967286).cfg.delayTime) := by
  decide

theorem witness_PulseEndsAtItsDeadline :
    ∃ t u v, exec (.trig .always) (pulsing 0 1000) = .next t ∧
      exec (.poll .always) { t with millis := 1009 } = .next u ∧
      exec (.poll .always) { t with millis := 1010 } = .next v ∧
      0 < intensityOrZero seqA (pulsing 0 1000).stepReg.toNat ∧
      u.trigOut = .high ∧ v.trigOut = .low :=
  ⟨_, _, _, rfl, rfl, rfl, by decide, by decide, by decide⟩

theorem witness_RepeatedFallChangesNothing :
    (∃ t u, exec (.trig .always) (atStep (start (cfgOf seqA)) .fall 0) = .next t ∧
      exec (.trig .always) t = .next u ∧ t.cfg.policy = .follow) ∧
    (∃ t u, exec (.trig .always) { pulsing 0 0 with edge := .fall } = .next t ∧
      exec (.trig .always) t = .next u ∧ t.cfg.policy ≠ .follow) :=
  ⟨⟨_, _, rfl, rfl, rfl⟩, ⟨_, _, rfl, rfl, by decide⟩⟩

theorem witness_TrigNeverReadsItsOutput :
    (pulsing 0 0).edge = .rise ∧ (pulsing 0 0).halted = false ∧
      ∃ t, exec (.trig .always) (pulsing 0 0) = .next t ∧ t.halted = false :=
  ⟨rfl, rfl, _, rfl, by decide⟩

theorem witness_SeqchkRecognisesTheRelease :
    ((previously driven .low).presetPrev = .low ∧
      (previously driven .low).presetInLevel = .high) ∧
    ¬(driven.presetPrev = .low ∧ driven.presetInLevel = .high) := by decide

/-- The largest operands, and T50's row by hand. -/
theorem witness_HsvValuesFit : (255 : Nat) ≤ 255 ∧ hsvP 255 255 = 0 ∧ hsvQ 84 128 200 = 102 := by
  decide

/-- T50's row by hand (`h = 84`, `s = 128`, `v = 200`): a hue of each sector, and its edges, are in
`test_hsv_boundaries`. -/
theorem witness_HsvSectors :
    (84 : Nat) ≤ 255 ∧ (249 : Nat) = (2 * 84) % 85 * 3 ∧ (99 : Nat) = 200 * (255 - 128) / 255 ∧
      (102 : Nat) = 200 * (255 - 128 * 249 / 255) / 255 ∧
      (197 : Nat) = 200 * (255 - 128 * (255 - 249) / 255) / 255 := by decide

/-- Also the witness of `RenderxBuildsTheFrame`: a position inside the sequence and one beyond it. -/
theorem witness_RenderBuildsTheFrame :
    driven.seq? = some seqA ∧ 3 < driven.cfg.ledCount ∧ 3 < seqA.length ∧
      4 < driven.cfg.ledCount ∧ ¬4 < seqA.length := by decide

theorem witness_WriteTransmitsOnChange :
    ((shown driven).lastV = true ∧ (shown driven).fb = (shown driven).last) ∧
    (¬(driven.lastV = true ∧ driven.fb = driven.last) ∧ driven.busOutcome = .ok) ∧
    (¬((bussed driven .fail).lastV = true ∧ (bussed driven .fail).fb = (bussed driven .fail).last) ∧
      (bussed driven .fail).busOutcome = .fail ∧
      (bussed driven .fail).halted = false) := by decide

theorem witness_SecondWriteTransmitsNothing :
    ∃ t u, exec (.write .always) driven = .next t ∧ t.halted = false ∧ driven.halted = false ∧
      exec (.write .always) t = .next u ∧ t.tx.length = 1 :=
  ⟨_, _, rfl, by decide, rfl, rfl, by decide⟩

theorem witness_SerializerKeepsEveryBit :
    sampleConfig.WF ∧ refused { sampleConfig with busBitOrder := .lsbFirst } = false ∧
      refused { sampleConfig with dataBitOrder := .lsbFirst } = false ∧ (List.replicate 8 (⟨1, 2, 3⟩ : Color)).length = sampleConfig.ledCount := by
  decide

theorem witness_StepoutDrivesDacAndGates :
    (driven.seq? = some seqA ∧ driven.stepReg.toNat < seqA.length ∧
      driven.stepReg.toNat < driven.cfg.gateCount) ∧
    ((gated 1 1).seq? = some seqA ∧ (gated 1 1).stepReg.toNat < seqA.length ∧
      intensityOrZero seqA (gated 1 1).stepReg.toNat = 0) ∧
    ((stepped driven 4).halted = false ∧ seqA.length ≤ (stepped driven 4).stepReg.toNat) ∧
    ((gated 3 3).halted = false ∧ (gated 3 3).seq? = some seqA ∧
      0 < intensityOrZero seqA (gated 3 3).stepReg.toNat ∧
      (gated 3 3).cfg.gateCount ≤ (gated 3 3).stepReg.toNat) := by decide

theorem witness_AbsentSlotCountsAsZero :
    seqA.slots.getD 2 none = none ∧ seqA.slots.getD 8 none = none ∧
      seqA.slots.getD 3 none = some 2 ∧ seqA.slots.getD 1 none = some 0 := by decide

theorem witness_HaltedBlockIsFrozen :
    (∃ s : State, s.cfg.WF ∧ s.halted = true ∧ s.turn = .tick ∧
      s.millis.toNat = 2 ^ 32 - 2 ∧ s.env.haltTick = [true]) ∧
    (∃ s : State, s.cfg.WF ∧ s.halted = true ∧ s.turn = .tick ∧
      s.millis.toNat = 2 ^ 32 - 2 ∧ s.env.haltTick = [false]) :=
  ⟨⟨counting (scheduled (timed (stopped State.reset) 4294967294) [.tick]) true, by decide⟩,
    ⟨counting (scheduled (timed (stopped State.reset) 4294967294) [.tick]) false, by decide⟩⟩

theorem witness_ResetLeavesTheHalt :
    (stopped State.reset).cfg.WF ∧ (stopped State.reset).halted = true := by decide

theorem witness_ResetValues : 7 < sampleConfig.ledCount ∧ 7 < sampleConfig.gateCount := by decide

theorem witness_IllFormedConfigurationIsRefused :
    ¬(start (cfgOf ⟨0, seqA.slots⟩)).cfg.WF := by decide

/-- A command of each kind that the frame statements name: a next state, its guard true or false. Also
the witness of `CommandsLeaveTimerAndConfiguration`, `FrameStoreAndPinWriters` and
`ResultAndHistoryAreNeverRead`. -/
theorem witness_ClockFlagAndSlotWriters :
    (∃ t, exec (.clkchk .always) driven = .next t) ∧ (∃ t, exec (.seqchk .always) driven = .next t) ∧
      (∃ t, exec (.write .always) driven = .next t) ∧
      (∃ t, exec (.stepout .always) driven = .next t) ∧
      (∃ t, exec (.render .rise) driven = .next t) ∧ ∃ t, exec (.halt .always) driven = .next t :=
  ⟨⟨_, rfl⟩, ⟨_, rfl⟩, ⟨_, rfl⟩, ⟨_, rfl⟩, ⟨_, rfl⟩, ⟨_, rfl⟩⟩

theorem witness_TickTouchesOnlyTheTimer :
    ((scheduled State.reset [.tick]).turn ≠ .main ∧
      ∃ t, step (scheduled State.reset [.tick]) = .next t) ∧
    ((scheduled State.reset [.tickLine]).turn ≠ .main ∧
      ∃ t, step (scheduled State.reset [.tickLine]) = .next t) :=
  ⟨⟨by decide, _, rfl⟩, ⟨by decide, _, rfl⟩⟩

/-- A step that transmits: the history grows by one. -/
theorem witness_HistoryIsAppendOnly :
    ∃ t, step (bussed (fetching 0x6200000000000000) .ok) = .next t ∧ t.tx.length = 1 :=
  ⟨_, rfl, by decide⟩

theorem witness_LatchNeverForgets :
    (latched (clocked (fetching 0x2000000000000000) [.low]) .rise).extLatch ≠ .unchanged ∧
      ∃ t, step (latched (clocked (fetching 0x2000000000000000) [.low]) .rise) = .next t ∧
        t.extLatch = .fall :=
  ⟨by decide, _, rfl, by decide⟩

/-- A block that has sent no frame, and one that then sends its first. -/
theorem witness_LastIsNotReadWhileInvalid :
    driven.lastV = false ∧ (∃ t, exec (.render .always) driven = .next t) ∧
      ∃ t, exec (.write .always) driven = .next t ∧ t.lastV = true :=
  ⟨rfl, ⟨_, rfl⟩, _, rfl, by decide⟩

/-- Two tables that differ in a slot beyond `length` only. -/
theorem witness_SlotsBeyondLengthAreIgnored :
    (List.Forall₂ (fun q r : Sequence => r.length = q.length ∧
      ∀ k : Nat, k < q.length → r.slots.getD k none = q.slots.getD k none) driven.cfg.table
      [{ seqA with slots := [some 7, some 0, none, some 2, some 9, none, none, none] }]) ∧
    ∃ t, exec (.stepout .always) driven = .next t :=
  ⟨.cons ⟨rfl, by decide⟩ .nil, _, rfl⟩

theorem witness_TickCommutesWithTimelessCommands :
    driven.halted = false ∧ driven.millis.toNat < 2 ^ 32 - 1 ∧
      driven.cfg.clkVariant = .external ∧ driven.cfg.policy ≠ .pulse ∧
      (∃ t, exec (.write .always) driven = .next t ∧ t.halted = false) ∧
      ∃ t, exec (.clkchk .always) driven = .next t :=
  ⟨rfl, by decide, rfl, by decide, ⟨_, rfl, by decide⟩, _, rfl⟩

/-- Also the witness of `StepKeepsTheInvariant` and `ResetMeetsTheInvariant`. -/
theorem witness_NothingIsStuck :
    sampleConfig.WF ∧ (scheduled State.reset [.main]).Inv ∧
      ∃ t, step (scheduled State.reset [.main]) = .next t :=
  ⟨by decide, by decide, _, rfl⟩

end Sys2Proof.Tests
end

namespace Sys2Proof.Machine

/-! ### The slots of a sequence (R16) -/

theorem intensityOrZero_of_none {q : Sequence} {i : Nat} (h : q.slots.getD i none = none) :
    intensityOrZero q i = 0 := by
  simp only [intensityOrZero, seqSlot, h]

theorem intensityOrZero_of_some {q : Sequence} {i : Nat} {n : Intensity}
    (h : q.slots.getD i none = some n) : intensityOrZero q i = n.val := by
  simp only [intensityOrZero, seqSlot, h]

theorem active_iff (q : Sequence) (i : Nat) : active q i = true ↔ 0 < intensityOrZero q i :=
  decide_eq_true_iff

theorem active_eq_false_iff (q : Sequence) (i : Nat) :
    active q i = false ↔ intensityOrZero q i = 0 := by
  rw [← Bool.not_eq_true, active_iff, Nat.pos_iff_ne_zero, not_not]

/-- Settles O42, by the two cases of the slot. -/
theorem absentSlotCountsAsZero : Obligations.AbsentSlotCountsAsZero := by
  unfold Obligations.AbsentSlotCountsAsZero
  intro q i
  constructor
  · intro absent
    have zero := intensityOrZero_of_none absent
    exact ⟨zero, (active_eq_false_iff q i).mpr zero⟩
  · intro n present
    have value := intensityOrZero_of_some present
    exact ⟨value, value ▸ active_iff q i⟩

end Sys2Proof.Machine

namespace Sys2Proof.Machine

/-! ### The stores of the reset state (R50) -/

theorem resetWith_fb_getElem? {c : Config} {i : Nat} (h : i < c.ledCount) :
    (State.resetWith c).fb[i]? = some ⟨0, 0, 0⟩ :=
  List.getElem?_replicate_of_lt h

theorem resetWith_gates_getElem? {c : Config} {i : Nat} (h : i < c.gateCount) :
    (State.resetWith c).gates[i]? = some .low :=
  List.getElem?_replicate_of_lt h

/-- Settles O46: the two stores entry by entry, every other field as `State.resetWith` sets it. -/
theorem resetValues : Obligations.ResetValues := by
  unfold Obligations.ResetValues
  intro c
  exact ⟨rfl, rfl, rfl, rfl, rfl, rfl, rfl, rfl, rfl, fun _ => resetWith_fb_getElem?,
    rfl, rfl, rfl, rfl, rfl, rfl, rfl, rfl, rfl, fun _ => resetWith_gates_getElem?, rfl⟩

end Sys2Proof.Machine

namespace Sys2Proof

/-! ### What each format accepts (R81 to R84) -/

theorem Opcode.eq_of_bits_eq {o o' : Opcode} (h : o.bits = o'.bits) : o = o' := by
  simpa using congrArg Opcode.ofBits h

theorem decodeZ_ok {k : BitVec 4} {a : BitVec 16} {imm : BitVec 32} {i j : Instr}
    (h : decodeZ k a imm i = .ok j) : k = 0 ∧ a = 0 ∧ imm = 0 ∧ j = i := by
  unfold decodeZ at h
  split at h
  · next hz =>
    obtain ⟨hk, ha, himm⟩ := hz
    exact ⟨hk, ha, himm, by simpa using h.symm⟩
  · simp at h

theorem decodeT_ok {g : Guard} {k : BitVec 4} {a : BitVec 16} {imm : BitVec 32} {j : Instr}
    (h : decodeT g k a imm = .ok j) : ∃ kind, kind.code = k ∧ a = 0 ∧ j = .sched g kind imm := by
  unfold decodeT at h
  split at h
  · next ha =>
    split at h
    · next kind hk => exact ⟨kind, TaskKind.code_of_ofCode hk, ha, by simpa using h.symm⟩
    · simp at h
  · simp at h

theorem decodeR_ok {g : Guard} {k : BitVec 4} {a : BitVec 16} {imm : BitVec 32} {j : Instr}
    (h : decodeR g k a imm = .ok j) :
    k = 0 ∧ a.extractLsb' 4 12 = 0 ∧ imm = 0 ∧
      j = .renderx g (a.extractLsb' 0 3) (a.getLsbD 3) := by
  unfold decodeR at h
  split at h
  · next hz =>
    obtain ⟨hk, ha, himm⟩ := hz
    exact ⟨hk, ha, himm, by simpa using h.symm⟩
  · simp at h

theorem decodeC_ok {g : Guard} {k : BitVec 4} {a : BitVec 16} {imm : BitVec 32} {j : Instr}
    (h : decodeC g k a imm = .ok j) :
    ∃ role, role.bits = k.extractLsb' 0 2 ∧ (a.getLsbD 4 = true ∨ a.extractLsb' 0 4 = 0) ∧
      k.extractLsb' 2 2 = 0 ∧ a.extractLsb' 5 11 = 0 ∧ imm = 0 ∧
      j = .cmap g (a.getLsbD 4) (a.extractLsb' 0 4) role := by
  unfold decodeC at h
  split at h
  · next hz =>
    obtain ⟨hk, ha, himm⟩ := hz
    split at h
    · next role hr =>
      split at h
      · next hp => exact ⟨role, Role.bits_of_ofBits hr, hp, hk, ha, himm, by simpa using h.symm⟩
      · simp at h
    · simp at h
  · simp at h

/-! ### A decoded word is the word of its command (R91) -/

/-- A row of format Z packs its zero operand fields and nothing else (R81). -/
theorem packZ_of_decodeZ {o : Opcode} {g : Guard} {k : BitVec 4} {a : BitVec 16}
    {imm : BitVec 32} {i j : Instr} (hi : encode i = packZ o g) (h : decodeZ k a imm i = .ok j) :
    encode j = packWord o g k a imm := by
  obtain ⟨rfl, rfl, rfl, rfl⟩ := decodeZ_ok h
  exact hi

/-- Encoding puts back the fields that `decodeOperands` read, row by row of R87. -/
theorem encode_of_decodeOperands {o : Opcode} {g : Guard} {k : BitVec 4} {a : BitVec 16}
    {imm : BitVec 32} {i : Instr} (h : decodeOperands o g k a imm = .ok i) :
    encode i = packWord o g k a imm := by
  cases o with
  | sched =>
    obtain ⟨kind, rfl, rfl, rfl⟩ := decodeT_ok h
    rfl
  | renderx =>
    obtain ⟨rfl, ha, rfl, rfl⟩ := decodeR_ok h
    rw [encode, renderOperands_eq ha]
  | cmap =>
    obtain ⟨role, hr, -, hk, ha, rfl, rfl⟩ := decodeC_ok h
    rw [encode, hr, roleField_eq hk, cmapOperands_eq ha]
  | _ => exact packZ_of_decodeZ rfl h

/-- No bit of a command word is ignored (R91). -/
theorem encode_of_decode {w : Word} {i : Instr} (h : decode w = .ok i) : encode i = w := by
  obtain ⟨o, g, hz, hg, ho, hd⟩ := decode_ok h
  rw [encode_of_decodeOperands hd, packed_fields hz ho hg]

theorem decode_injective {w w' : Word} {i : Instr} (h : decode w = .ok i)
    (h' : decode w' = .ok i) : w = w' :=
  (encode_of_decode h).symm.trans (encode_of_decode h')

/-- A word that decodes has an `op` of R87, and its operand fields were read in that row's format. -/
theorem decodeOperands_of_opField {w : Word} {o : Opcode} {i : Instr} (h : decode w = .ok i)
    (ho : opField w = o.bits) :
    ∃ g, decodeOperands o g (kField w) (aField w) (immField w) = .ok i := by
  obtain ⟨o', g, -, -, ho', hd⟩ := decode_ok h
  obtain rfl := Opcode.eq_of_bits_eq (ho.symm.trans ho')
  exact ⟨g, hd⟩

/-! ### The masks of the rows (R81 to R84) -/

/-- A row's mask, field by field, keeps `op`, drops `g`, and meets nothing in the operand fields of a
word of that row: what is left is the row's pattern. -/
theorem packWord_and_mask {o : Opcode} {k mk : BitVec 4} {a ma : BitVec 16} {imm mi : BitVec 32}
    (g : Guard)
    (hm : o.mask = (0xFF : BitVec 8) ++ (0 : BitVec 2) ++ (3 : BitVec 2) ++ mk ++ ma ++ mi)
    (hk : k &&& mk = 0) (ha : a &&& ma = 0) (hi : imm &&& mi = 0) :
    packWord o g k a imm &&& o.mask = o.pattern := by
  have fieldwise : packWord o g k a imm &&& o.mask =
      o.bits ++ (0 : BitVec 2) ++ (0 : BitVec 2) ++ (0 : BitVec 4) ++ (0 : BitVec 16) ++
        (0 : BitVec 32) := by
    have hop : o.bits &&& 0xFF = o.bits := BitVec.and_allOnes
    have hg : g.bits &&& 0 = 0 := BitVec.and_zero
    have hz : (0 : BitVec 2) &&& 3 = 0 := BitVec.zero_and
    rw [hm, packWord, BitVec.and_append, BitVec.and_append, BitVec.and_append, BitVec.and_append,
      BitVec.and_append, hop, hg, hz, hk, ha, hi]
  rw [fieldwise]
  cases o <;> decide

theorem packZ_and_mask {o : Opcode} (g : Guard) (hm : o.mask = 0xFF3FFFFFFFFFFFFF) :
    packZ o g &&& o.mask = o.pattern :=
  packWord_and_mask (mk := 0xF) (ma := 0xFFFF) (mi := 0xFFFFFFFF) g
    (hm.trans (by decide)) BitVec.zero_and BitVec.zero_and BitVec.zero_and

/-- The operands of format R stay out of its mask (R83). -/
theorem renderOperands_and_mask (cur : BitVec 3) (m : Bool) :
    ((0 : BitVec 12) ++ BitVec.ofBool m ++ cur) &&& 0xFFF0 = 0 := by
  cases m <;> revert cur <;> decide

/-- The operands of format C stay out of its mask (R84). -/
theorem cmapOperands_and_mask (i : BitVec 4) (p : Bool) :
    ((0 : BitVec 11) ++ BitVec.ofBool p ++ i) &&& 0xFFE0 = 0 := by
  cases p <;> revert i <;> decide

theorem roleField_and_mask (r : BitVec 2) : ((0 : BitVec 2) ++ r) &&& (0xC : BitVec 4) = 0 := by
  revert r; decide

/-- The word of every command meets its row's match under its row's mask (R81 to R84, R87). -/
theorem encode_and_mask (i : Instr) : encode i &&& i.opcode.mask = i.opcode.pattern := by
  cases i with
  | sched g kind fireAt =>
    exact packWord_and_mask (mk := 0) (ma := 0xFFFF) (mi := 0) g (by decide)
      BitVec.and_zero BitVec.zero_and BitVec.and_zero
  | renderx g cur m =>
    exact packWord_and_mask (mk := 0xF) (mi := 0xFFFFFFFF) g (by decide)
      BitVec.zero_and (renderOperands_and_mask cur m) BitVec.zero_and
  | cmap g p i role =>
    exact packWord_and_mask (mk := 0xC) (ma := 0xFFE0) (mi := 0xFFFFFFFF) g (by decide)
      (roleField_and_mask role.bits) (cmapOperands_and_mask i p) BitVec.zero_and
  | _ g => exact packZ_and_mask g rfl

theorem opField_encode (i : Instr) : opField (encode i) = i.opcode.bits := by
  cases i <;> exact opField_packWord ..

/-- A word that decodes has zero in every must-be-zero field of its row (R91). -/
theorem and_mask_of_decode {w : Word} {o : Opcode} {i : Instr} (h : decode w = .ok i)
    (ho : opField w = o.bits) : w &&& o.mask = o.pattern := by
  obtain rfl := encode_of_decode h
  obtain rfl := Opcode.eq_of_bits_eq ((opField_encode i).symm.trans ho)
  exact encode_and_mask i

/-! ### The reserved codes (R37, R86, R92, R93) -/

theorem Guard.bits_ne_three (g : Guard) : g.bits ≠ 3 := by cases g <;> decide

theorem Role.bits_ne_three (r : Role) : r.bits ≠ 3 := by cases r <;> decide

theorem Opcode.bits_ne_zero (o : Opcode) : o.bits ≠ 0 := by cases o <;> decide

theorem guardField_ne_three_of_decode {w : Word} {i : Instr} (h : decode w = .ok i) :
    guardField w ≠ 3 := by
  obtain ⟨_, g, -, hg, -, -⟩ := decode_ok h
  exact hg ▸ g.bits_ne_three

/-- The only task kind a SCHED can hold is `TrigLow` (R93). -/
theorem kField_of_decode_sched {w : Word} {i : Instr} (h : decode w = .ok i)
    (ho : opField w = Opcode.sched.bits) : kField w = 1 := by
  obtain ⟨g, hd⟩ := decodeOperands_of_opField h ho
  obtain ⟨⟨⟩, hk, -, -⟩ := decodeT_ok hd
  exact hk.symm

/-- A CMAP that decodes has a role that is not reserved, and no intensity on an unset slot (R93). -/
theorem operands_of_decode_cmap {w : Word} {i : Instr} (h : decode w = .ok i)
    (ho : opField w = Opcode.cmap.bits) : (kField w).extractLsb' 0 2 ≠ 3 ∧
      ((aField w).getLsbD 4 = true ∨ (aField w).extractLsb' 0 4 = 0) := by
  obtain ⟨g, hd⟩ := decodeOperands_of_opField h ho
  obtain ⟨role, hr, hp, -, -, -, -⟩ := decodeC_ok hd
  exact ⟨hr ▸ role.bits_ne_three, hp⟩

end Sys2Proof

namespace Sys2Proof.Machine

/-! ### An illegal word at the fetch (R85, R251) -/

theorem raise_of_running {s : State} (c : Cause) (h : s.halted = false) :
    s.raise c = { s with halted := true, cause := c } := by
  simp [State.raise, h]

theorem mainStep_of_fetchWord {s : State} {w : Word} (hrun : s.halted = false)
    (hw : s.fetchWord = some w) : mainStep s = runWord w s := by
  simp [mainStep, hrun, hw]

/-- The step runs the fetched word in the state with the turn used up (R229). -/
theorem step_of_fetches {s : State} {w : Word} (hf : s.Fetches w) :
    step s = runWord w s.turnTaken := by
  obtain ⟨hwf, hrun, hturn, hw⟩ := hf
  rw [step_of_wf hwf, hturn, agentStep]
  exact mainStep_of_fetchWord (s := s.turnTaken) hrun hw

/-- The fetch of a running block that meets a word that does not decode halts it and writes nothing
else. -/
theorem step_of_decode_error {s : State} {w : Word} {e : DecodeError} (hf : s.Fetches w)
    (he : decode w = .error e) :
    step s = .next { s with
      env := s.env.afterTurn, halted := true, cause := .illegalCommand } := by
  have started := step_of_fetches hf
  obtain ⟨-, hrun, -, -⟩ := hf
  have running : s.turnTaken.halted = false := hrun
  rw [started, runWord, he, raise_of_running _ running]
  rfl

theorem step_of_not_decodes {s : State} {w : Word} (hf : s.Fetches w)
    (hd : ∀ i, decode w ≠ .ok i) :
    step s = .next { s with
      env := s.env.afterTurn, halted := true, cause := .illegalCommand } := by
  cases h : decode w with
  | error e => exact step_of_decode_error hf h
  | ok i => exact absurd h (hd i)

/-- A command whose guard does not hold only moves `PC` on (R86). -/
theorem exec_of_guard_false {i : Instr} {s : State} (hg : guardHolds i.guard s = false) :
    exec i s = .next s.nextPc := by
  rw [exec_eq, hg, runCommand_false]

/-- Settles O5: a word that decodes has the `op` of a row of R87. -/
theorem reservedOpcodeHalts : Obligations.ReservedOpcodeHalts := by
  unfold Obligations.ReservedOpcodeHalts
  refine ⟨fun s w hf hop => step_of_not_decodes hf fun i hi => ?_, Opcode.bits_ne_zero⟩
  obtain ⟨o, _, -, -, ho, -⟩ := decode_ok hi
  exact hop o ho

/-- Settles O6: a decoded word is the word of its command, which its row's mask accepts. -/
theorem mustBeZeroFieldsHalt : Obligations.MustBeZeroFieldsHalt := by
  unfold Obligations.MustBeZeroFieldsHalt
  refine ⟨fun s w hf hbad => step_of_not_decodes hf fun i hi => ?_,
    fun _ _ _ h h' => decode_injective h h'⟩
  obtain hz | ⟨o, ho, hm⟩ := hbad
  · obtain ⟨_, _, hz0, -⟩ := decode_ok hi
    exact hz hz0
  · exact hm (and_mask_of_decode hi ho)

/-- Settles O7: none of the four reserved operands is in a word that decodes. -/
theorem reservedOperandsHalt : Obligations.ReservedOperandsHalt := by
  unfold Obligations.ReservedOperandsHalt
  refine fun s w hf hbad => step_of_not_decodes hf fun i hi => ?_
  obtain hg | ⟨ho, hk⟩ | ⟨ho, hr⟩ | ⟨ho, hp, hi0⟩ := hbad
  · exact guardField_ne_three_of_decode hi hg
  · exact hk (kField_of_decode_sched hi ho)
  · obtain ⟨role_ok, -⟩ := operands_of_decode_cmap hi ho
    exact role_ok hr
  · obtain ⟨-, set | zero⟩ := operands_of_decode_cmap hi ho
    · exact Bool.false_ne_true (hp.symm.trans set)
    · exact hi0 zero

/-- Settles O10: the codes and tests are those of `Guard.bits` and `guardHolds`, and every command runs
under its guard. -/
theorem falseGuardOnlyAdvancesPc : Obligations.FalseGuardOnlyAdvancesPc := by
  unfold Obligations.FalseGuardOnlyAdvancesPc
  refine ⟨⟨rfl, rfl, rfl⟩, fun _ _ _ => step_of_decode_error, fun s => ?tests,
    fun _ _ => exec_of_guard_false⟩
  case tests => exact ⟨guardHolds_always s, by rw [guardHolds_chg], by simp⟩

end Sys2Proof.Machine

namespace Sys2Proof.Machine

/-! ### What a TICK does, by the block's mode and the count (R110, R111, R115) -/

theorem millis_add_one (m : Time) : m + 1 = BitVec.ofNat 32 (m.toNat + 1) := by
  apply BitVec.eq_of_toNat_eq
  simp

theorem tickRunning_below {s : State} (hlow : s.millis.toNat < 2 ^ 32 - 1) :
    tickRunning s = { s with
      millis := BitVec.ofNat 32 (s.millis.toNat + 1), tickPend := false } := by
  obtain ⟨top, -⟩ | ⟨-, counted⟩ := tickRunning_cases s
  · omega
  · rw [counted, millis_add_one]

theorem tickRunning_top {s : State} (htop : s.millis.toNat = 2 ^ 32 - 1) :
    tickRunning s = s.raise .timeOverflow := by
  obtain ⟨-, raised⟩ | ⟨below, -⟩ := tickRunning_cases s
  · exact raised
  · omega

/-- A TICK of a halted block changes `MILLIS` and the environment's choices at most (R115). -/
theorem tickHalted_frame (s : State) :
    tickHalted s = { s with env := (tickHalted s).env, millis := (tickHalted s).millis } := by
  obtain passed | ⟨-, counted⟩ := tickHalted_cases s
  · rw [passed]; rfl
  · rw [counted]; rfl

theorem tickHalted_millis (s : State) :
    (tickHalted s).millis = s.millis ∨ (tickHalted s).millis.toNat = s.millis.toNat + 1 := by
  obtain passed | ⟨fits, counted⟩ := tickHalted_cases s
  · exact .inl (by rw [passed]; rfl)
  · refine .inr ?_
    rw [counted, millis_add_one, BitVec.toNat_ofNat, Nat.mod_eq_of_lt fits]

theorem tickEvent_of_running {s : State} (hrun : s.halted = false) :
    tickEvent s = tickRunning s := by
  simp [tickEvent, hrun]

theorem tickEvent_of_halted {s : State} (hhalt : s.halted = true) : tickEvent s = tickHalted s :=
  if_pos hhalt

/-- On its turn the tick agent serves one TICK in the state with the turn used up (R70). -/
theorem step_of_tick {s : State} (hwf : s.cfg.WF) (hturn : s.turn = .tick) :
    step s = .next (tickEvent s.turnTaken) := by
  rw [step_of_wf hwf, hturn, agentStep]

/-- Settles O13: a running block counts or raises, by its distance from the top; a halted block has
the frame of `tickHalted`. -/
theorem tickAddsOneOrHaltsAtTheTop : Obligations.TickAddsOneOrHaltsAtTheTop := by
  unfold Obligations.TickAddsOneOrHaltsAtTheTop
  intro s hwf hturn
  rw [step_of_tick hwf hturn]
  refine ⟨fun hrun hlow => ?below, fun hrun htop => ?top, fun hhalt => ?halted⟩
  case below =>
    rw [tickEvent_of_running (s := s.turnTaken) hrun, tickRunning_below (s := s.turnTaken) hlow]
    rfl
  case top =>
    rw [tickEvent_of_running (s := s.turnTaken) hrun, tickRunning_top (s := s.turnTaken) htop,
      raise_of_running (s := s.turnTaken) _ hrun]
    rfl
  case halted =>
    rw [tickEvent_of_halted (s := s.turnTaken) hhalt]
    exact ⟨_, rfl, tickHalted_frame s.turnTaken, tickHalted_millis s.turnTaken⟩

/-- Settles O16: the rule of NOW runs under its guard, and its word is of format Z. -/
theorem nowReturnsMillis : Obligations.NowReturnsMillis := by
  unfold Obligations.NowReturnsMillis
  exact ⟨fun g _ hg => exec_of_rule (i := .now g) hg rfl, by decide⟩

end Sys2Proof.Machine

namespace Sys2Proof.Machine

/-! ### No command writes the timer or the configuration (R114, R75)

A relation between the state before a command and the state with its writes: each rule keeps it, and so
does the end of a command. -/

/-- `t` has the `MILLIS`, the `TICK_PEND` and the configuration of `s`. -/
def SameTimerAndConfig (s t : State) : Prop :=
  t.millis = s.millis ∧ t.tickPend = s.tickPend ∧ t.cfg = s.cfg

theorem SameTimerAndConfig.refl (s : State) : SameTimerAndConfig s s := ⟨rfl, rfl, rfl⟩

theorem pollRule_sameTimerAndConfig (s : State) : SameTimerAndConfig s (pollRule s) := by
  cases hslot : s.task with
  | empty => rw [pollRule_empty hslot]; exact .refl s
  | pending kind t =>
    obtain early | due := Nat.lt_or_ge s.millis.toNat t.toNat
    · rw [pollRule_early hslot early]; exact .refl s
    · rw [pollRule_due hslot due]; exact ⟨rfl, rfl, rfl⟩

theorem clkLatched_sameTimerAndConfig (s : State) (e : Edge) :
    SameTimerAndConfig s (clkLatched s e) := by
  unfold clkLatched
  split <;> split <;> exact ⟨rfl, rfl, rfl⟩

theorem clkchkRule_sameTimerAndConfig (q : Sequence) (s : State) :
    SameTimerAndConfig s (clkchkRule q s) :=
  clkLatched_sameTimerAndConfig s (clkEdge s)

theorem trigRise_sameTimerAndConfig (q : Sequence) (s : State) :
    SameTimerAndConfig s (trigRise q s).after := by
  obtain ⟨-, h⟩ | ⟨-, -, -, h⟩ | ⟨-, -, -, h⟩ | ⟨-, -, h⟩ := trigRise_cases q s <;>
    rw [h] <;> exact ⟨rfl, rfl, rfl⟩

theorem trigFall_sameTimerAndConfig (s : State) : SameTimerAndConfig s (trigFall s) := by
  unfold trigFall
  split <;> exact ⟨rfl, rfl, rfl⟩

theorem trigRule_sameTimerAndConfig {s : State} {e : Effect} (h : trigRule s = .ok e) :
    SameTimerAndConfig s e.after := by
  unfold trigRule at h
  split at h
  · obtain ⟨q, -, rfl⟩ := withSeq_ok h
    exact trigRise_sameTimerAndConfig q s
  · cases h
    exact trigFall_sameTimerAndConfig s
  · cases h
    exact .refl s

theorem writeRule_sameTimerAndConfig (s : State) : SameTimerAndConfig s (writeRule s).after := by
  obtain ⟨-, h⟩ | ⟨-, -, h⟩ | ⟨-, -, h⟩ := writeRule_cases s <;>
    rw [h] <;> exact ⟨rfl, rfl, rfl⟩

theorem stepoutRule_sameTimerAndConfig (q : Sequence) (s : State) :
    SameTimerAndConfig s (stepoutRule q s).after := by
  obtain ⟨-, h⟩ | ⟨-, -, h⟩ := stepoutRule_cases q s <;>
    rw [h] <;> exact ⟨rfl, rfl, rfl⟩

/-- Every command's rule, row by row of R87: the rows left to the last case write one register each. -/
theorem ruleOf_sameTimerAndConfig {i : Instr} {s : State} {e : Effect} (h : ruleOf i s = .ok e) :
    SameTimerAndConfig s e.after := by
  cases i with
  | poll g => cases h; exact pollRule_sameTimerAndConfig s
  | write g => cases h; exact writeRule_sameTimerAndConfig s
  | trig g => exact trigRule_sameTimerAndConfig h
  | clkchk g =>
    obtain ⟨q, -, rfl⟩ := withSeq_ok h
    exact clkchkRule_sameTimerAndConfig q s
  | stepout g =>
    obtain ⟨q, -, rfl⟩ := withSeq_ok h
    exact stepoutRule_sameTimerAndConfig q s
  | render | renderx =>
    obtain ⟨q, -, rfl⟩ := withSeq_ok h
    exact ⟨rfl, rfl, rfl⟩
  | _ => cases h; exact ⟨rfl, rfl, rfl⟩

/-- The end of a command writes `PC`, or `HALTED` and `CAUSE` (R229, R256). -/
theorem finish_sameTimerAndConfig {s : State} {e : Effect} (h : SameTimerAndConfig s e.after) :
    SameTimerAndConfig s e.finish := by
  obtain ⟨-, moved⟩ | ⟨c, -, raised⟩ := finish_cases e
  · rw [moved]; exact h
  · rw [raised]; exact h

theorem exec_sameTimerAndConfig {i : Instr} {s t : State} (h : exec i s = .next t) :
    SameTimerAndConfig s t := by
  obtain ⟨-, rfl⟩ | ⟨-, e, hr, rfl⟩ := exec_cases h
  · exact ⟨rfl, rfl, rfl⟩
  · exact finish_sameTimerAndConfig (ruleOf_sameTimerAndConfig hr)

theorem mainStep_sameTimerAndConfig {s t : State} (h : mainStep s = .next t) :
    SameTimerAndConfig s t := by
  obtain ⟨-, rfl⟩ | ⟨-, _, -, ⟨_, -, rfl⟩ | ⟨_, -, ran⟩⟩ := mainStep_cases h
  · exact .refl t
  · exact ⟨rfl, rfl, rfl⟩
  · exact exec_sameTimerAndConfig ran

theorem tickEvent_cfg (s : State) : (tickEvent s).cfg = s.cfg := by rw [tickEvent_frame]

theorem tickRequest_cfg (s : State) : (tickRequest s).cfg = s.cfg := by rw [tickRequest_frame]

/-- The configuration is fixed for the machine, whichever agent moves (R7, R75). -/
theorem step_cfg {s t : State} (h : step s = .next t) : t.cfg = s.cfg := by
  obtain ⟨-, ⟨-, main⟩ | ⟨-, rfl⟩ | ⟨-, rfl⟩⟩ := step_cases h
  · obtain ⟨-, -, hcfg⟩ := mainStep_sameTimerAndConfig main
    exact hcfg
  · exact tickEvent_cfg s.turnTaken
  · exact tickRequest_cfg s.turnTaken

/-- Settles O48: every rule keeps the timer and the configuration, and the tick agent and the tick line
have no configuration in their frames. -/
theorem commandsLeaveTimerAndConfiguration : Obligations.CommandsLeaveTimerAndConfiguration := by
  unfold Obligations.CommandsLeaveTimerAndConfiguration
  exact ⟨fun _ _ _ => exec_sameTimerAndConfig, fun _ _ => step_cfg⟩

end Sys2Proof.Machine

namespace Sys2Proof.Machine

/-! ### POLL (R121) -/

/-- POLL under a guard that holds is one command: its rule, then the next `PC` (R121, R229). -/
theorem exec_poll_of_guard {g : Guard} {s : State} (hg : guardHolds g s = true) :
    exec (.poll g) s = .next (pollRule s).nextPc :=
  exec_of_rule (i := .poll g) hg rfl

/-- Settles O18: POLL's rule in each case of the slot, due, early and empty; its word is of format Z. -/
theorem pollFiresADueTask : Obligations.PollFiresADueTask := by
  unfold Obligations.PollFiresADueTask
  refine ⟨fun g s kind t hg pending due => ?due, fun g s kind t hg pending early => ?early,
    fun g s hg empty => ?empty, by decide⟩
  case due =>
    rw [exec_poll_of_guard hg, pollRule_due pending due]
    rfl
  case early =>
    rw [exec_poll_of_guard hg, pollRule_early pending early]
    rfl
  case empty =>
    rw [exec_poll_of_guard hg, pollRule_empty empty]
    rfl

/-- Settles O17: the rule of SCHED reads nothing of the slot it overwrites, and its word is of format T. -/
theorem schedOverwritesTheSlot : Obligations.SchedOverwritesTheSlot := by
  unfold Obligations.SchedOverwritesTheSlot
  exact ⟨fun g kind t _ hg => exec_of_rule (i := .sched g kind t) hg rfl, by decide, rfl⟩

end Sys2Proof.Machine

namespace Sys2Proof.Machine

/-! ### Advance and the layout of RES (R27, R130) -/

theorem advance_of_inside {step len : Nat} (h : step + 1 < len) : advance step len = step + 1 :=
  if_neg (by omega)

theorem advance_of_end {step len : Nat} (hlen : 1 ≤ len) (h : len ≤ step + 1) :
    advance step len = 0 := if_pos (by omega)

@[simp] theorem edgeCode_unchanged : edgeCode .unchanged = 0 := rfl

/-- The field [15:8] of the result of CLKCHK is the step (R27). -/
theorem resAfterClkchk_step (step : BitVec 3) (e : Edge) :
    ((resAfterClkchk step e).extractLsb' 8 8).toNat = step.toNat := by
  cases e <;> revert step <;> decide

/-- On a Rise the step reported is the advanced one, no bit of it lost in `STEP` (R130, R136). -/
theorem resAfterClkchk_rise {step : BitVec 3} {q : Sequence} (hq : q.WF) :
    resAfterClkchk (stepAfter step .rise q.length) .rise =
      BitVec.ofNat 32 (advance step.toNat q.length * 256 + 1) := by
  obtain ⟨hlen, hcap, -⟩ := hq
  rw [resAfterClkchk, stepAfter_rise hlen hcap]
  rfl

/-! ### The edge, per variant (R131, R133) -/

theorem extClassify_high {latch : Edge} (h : latch ≠ .rise) : extClassify .high latch = .rise := by
  simp [extClassify, h]

theorem extClassify_low {latch : Edge} (h : latch ≠ .fall) : extClassify .low latch = .fall := by
  simp [extClassify, h]

theorem extClassify_same {level : Level} {latch : Edge}
    (h : (level = .high ∧ latch = .rise) ∨ (level = .low ∧ latch = .fall)) :
    extClassify level latch = .unchanged := by
  obtain ⟨rfl, rfl⟩ | ⟨rfl, rfl⟩ := h <;> rfl

theorem intClassify_due {c : Config} {now lastTick : Nat} (h : lastTick + c.interval ≤ now) :
    intClassify c now lastTick = .rise := if_pos h

theorem intClassify_held {c : Config} {now lastTick : Nat} (hi : now < lastTick + c.interval)
    (hh : lastTick + c.holdTime ≤ now) : intClassify c now lastTick = .fall := by
  rw [intClassify, if_neg (Nat.not_le.2 hi), if_pos hh]

theorem intClassify_early {c : Config} {now lastTick : Nat} (hi : now < lastTick + c.interval)
    (hh : now < lastTick + c.holdTime) : intClassify c now lastTick = .unchanged := by
  rw [intClassify, if_neg (Nat.not_le.2 hi), if_neg (Nat.not_le.2 hh)]

theorem clkEdge_external {s : State} (h : s.cfg.clkVariant = .external) :
    clkEdge s = extClassify s.clkInLevel s.extLatch := by
  rw [clkEdge, h]

theorem clkEdge_internal {s : State} (h : s.cfg.clkVariant = .internal) :
    clkEdge s = intClassify s.cfg s.millis.toNat s.lastTick.toNat := by
  rw [clkEdge, h]

/-! ### The variant's own registers after the classification (R131, R133) -/

theorem clkLatched_external {s : State} {e : Edge} (h : s.cfg.clkVariant = .external)
    (he : e ≠ .unchanged) :
    clkLatched s e = { s with env := s.env.afterClkIn, extLatch := e } := by
  rw [clkLatched, h]
  exact if_neg he

theorem clkLatched_external_unchanged {s : State} (h : s.cfg.clkVariant = .external) :
    clkLatched s .unchanged = s.withEnv s.env.afterClkIn := by
  rw [clkLatched, h]
  rfl

theorem clkLatched_internal_rise {s : State} (h : s.cfg.clkVariant = .internal) :
    clkLatched s .rise = { s with lastTick := s.millis } := by
  rw [clkLatched, h]
  rfl

theorem clkLatched_internal {s : State} {e : Edge} (h : s.cfg.clkVariant = .internal)
    (he : e ≠ .rise) : clkLatched s e = s := by
  rw [clkLatched, h]
  exact if_neg he

/-! ### CLKCHK under a guard that holds (R134) -/

theorem exec_clkchk_of_guard {g : Guard} {s : State} {q : Sequence}
    (hg : guardHolds g s = true) (hseq : s.seq? = some q) :
    exec (.clkchk g) s = .next (clkchkRule q s).nextPc :=
  exec_of_rule (i := .clkchk g) hg (withSeq_some hseq _)

/-- A CLKCHK that classifies Rise advances `STEP` and reports the advanced step (R130, R136). -/
theorem exec_clkchk_rise {g : Guard} {s : State} {q : Sequence} (hwf : s.cfg.WF)
    (hg : guardHolds g s = true) (hseq : s.seq? = some q) (he : clkEdge s = .rise) :
    exec (.clkchk g) s = .next { clkLatched s .rise with
      stepReg := BitVec.ofNat 3 (advance s.stepReg.toNat q.length)
      edge := .rise
      res := BitVec.ofNat 32 (advance s.stepReg.toNat q.length * 256 + 1) }.nextPc := by
  rw [exec_clkchk_of_guard hg hseq, clkchkRule, he, resAfterClkchk_rise (seq?_wf hwf hseq)]
  rfl

/-- A CLKCHK that classifies Fall or Unchanged reports the step it leaves alone (R134). -/
theorem exec_clkchk_keep {g : Guard} {s : State} {q : Sequence} {e : Edge}
    (hg : guardHolds g s = true) (hseq : s.seq? = some q) (he : clkEdge s = e)
    (hkeep : e ≠ .rise) :
    exec (.clkchk g) s = .next { clkLatched s e with
      stepReg := s.stepReg
      edge := e
      res := BitVec.ofNat 32 (s.stepReg.toNat * 256 + edgeCode e) }.nextPc := by
  rw [exec_clkchk_of_guard hg hseq, clkchkRule, he, stepAfter_keep hkeep]
  rfl

/-- Settles O20: an advanced step is below the length, which fits the register, and the result's
step field holds the register. -/
theorem advanceKeepsTheStepInRange : Obligations.AdvanceKeepsTheStepInRange := by
  unfold Obligations.AdvanceKeepsTheStepInRange
  refine ⟨fun step len hlen => ⟨advance_of_inside, advance_of_end hlen, advance_lt hlen⟩,
    fun g s t q hwf hg hseq hexec hrise => ?_⟩
  obtain rfl : (clkchkRule q s).nextPc = t := by
    simpa [exec_clkchk_of_guard hg hseq] using hexec
  have classified : clkEdge s = .rise := hrise
  refine ⟨?range, resAfterClkchk_step _ _⟩
  obtain ⟨hlen, hcap, -⟩ := seq?_wf hwf hseq
  calc (clkchkRule q s).nextPc.stepReg.toNat
      = (stepAfter s.stepReg .rise q.length).toNat := by rw [← classified]; rfl
    _ = advance s.stepReg.toNat q.length := stepAfter_rise hlen hcap
    _ < q.length := advance_lt hlen

/-- Settles O22: in each variant the edge is the classification's, and CLKCHK writes what a Rise, or
an edge that keeps the step, writes. -/
theorem clkchkClassifiesPerVariant : Obligations.ClkchkClassifiesPerVariant := by
  unfold Obligations.ClkchkClassifiesPerVariant
  refine ⟨fun g s q hwf hg hext hseq => ?external, fun g s q hwf hg hint hseq => ?internal,
    by decide⟩
  case external =>
    have edge := clkEdge_external hext
    refine ⟨fun high latch => ?rise, fun low latch => ?fall, fun same => ?unchanged⟩
    case rise =>
      rw [high, extClassify_high latch] at edge
      rw [exec_clkchk_rise hwf hg hseq edge, clkLatched_external hext (by decide)]
      rfl
    case fall =>
      rw [low, extClassify_low latch] at edge
      rw [exec_clkchk_keep hg hseq edge (by decide), clkLatched_external hext (by decide)]
      rfl
    case unchanged =>
      rw [extClassify_same same] at edge
      rw [exec_clkchk_keep hg hseq edge (by decide), clkLatched_external_unchanged hext,
        edgeCode_unchanged, Nat.add_zero]
      rfl
  case internal =>
    have edge := clkEdge_internal hint
    refine ⟨fun due => ?rise, fun notDue held => ?fall, fun notDue early => ?unchanged⟩
    case rise =>
      rw [intClassify_due due] at edge
      rw [exec_clkchk_rise hwf hg hseq edge, clkLatched_internal_rise hint]
      rfl
    case fall =>
      rw [intClassify_held notDue held] at edge
      rw [exec_clkchk_keep hg hseq edge (by decide), clkLatched_internal hint (by decide)]
      rfl
    case unchanged =>
      rw [intClassify_early notDue early] at edge
      rw [exec_clkchk_keep hg hseq edge (by decide), clkLatched_internal hint (by decide),
        edgeCode_unchanged, Nat.add_zero]
      rfl

/-- Settles O24: the rule of CLKRST writes `STEP` alone, and its word is of format Z. -/
theorem clkrstClearsStepOnly : Obligations.ClkrstClearsStepOnly := by
  unfold Obligations.ClkrstClearsStepOnly
  exact ⟨fun g _ hg => exec_of_rule (i := .clkrst g) hg rfl, by decide⟩

end Sys2Proof.Machine

namespace Sys2Proof.Machine

/-! ### TRIG per edge (R150, R151) -/

theorem levelOf_active (q : Sequence) (i : Nat) :
    levelOf (active q i) = if 0 < intensityOrZero q i then .high else .low := by
  simp only [levelOf, active_iff]

/-- The step outside the sequence is tested before the deadline (R150, R261 b). -/
theorem trigRise_outside {q : Sequence} {s : State} (outside : q.length ≤ s.stepReg.toNat) :
    trigRise q s = .faults s .invariantViolation := by
  obtain ⟨-, rule⟩ | ⟨inside, -⟩ | ⟨inside, -⟩ | ⟨inside, -⟩ := trigRise_cases q s
  · exact rule
  all_goals omega

theorem trigRise_overflow {q : Sequence} {s : State} (inside : s.stepReg.toNat < q.length)
    (pulse : s.cfg.policy = .pulse) (late : 2 ^ 32 ≤ s.millis.toNat + s.cfg.delayTime) :
    trigRise q s = .faults s .timeOverflow := by
  obtain ⟨outside, -⟩ | ⟨-, -, -, rule⟩ | ⟨-, -, fits, -⟩ | ⟨-, other, -⟩ := trigRise_cases q s
  · omega
  · exact rule
  · omega
  · exact absurd pulse other

theorem trigRise_pulse {q : Sequence} {s : State} (inside : s.stepReg.toNat < q.length)
    (pulse : s.cfg.policy = .pulse) (fits : s.millis.toNat + s.cfg.delayTime < 2 ^ 32) :
    trigRise q s = .writes { s with
      trigOut := if 0 < intensityOrZero q s.stepReg.toNat then .high else .low
      task := .pending .trigLow (BitVec.ofNat 32 (s.millis.toNat + s.cfg.delayTime)) } := by
  obtain ⟨outside, -⟩ | ⟨-, -, late, -⟩ | ⟨-, -, -, rule⟩ | ⟨-, other, -⟩ := trigRise_cases q s
  · omega
  · omega
  · rw [rule, levelOf_active]
  · exact absurd pulse other

theorem trigRise_of_not_pulse {q : Sequence} {s : State} (inside : s.stepReg.toNat < q.length)
    (other : s.cfg.policy ≠ .pulse) :
    trigRise q s = .writes { s with
      trigOut := if 0 < intensityOrZero q s.stepReg.toNat then .high else .low } := by
  obtain ⟨outside, -⟩ | ⟨-, pulse, -⟩ | ⟨-, pulse, -⟩ | ⟨-, -, rule⟩ := trigRise_cases q s
  · omega
  · exact absurd pulse other
  · exact absurd pulse other
  · rw [rule, levelOf_active]

theorem trigFall_follow {s : State} (follow : s.cfg.policy = .follow) :
    trigFall s = { s with trigOut := .low } := if_pos follow

theorem trigFall_of_not_follow {s : State} (other : s.cfg.policy ≠ .follow) : trigFall s = s :=
  if_neg other

/-! ### TRIG under a guard that holds (R150) -/

theorem exec_trig_rise {g : Guard} {s : State} {q : Sequence} (hg : guardHolds g s = true)
    (rise : s.edge = .rise) (hseq : s.seq? = some q) :
    exec (.trig g) s = .next (trigRise q s).finish := by
  refine exec_of_rule (i := .trig g) hg ?_
  rw [ruleOf, trigRule, rise]
  exact withSeq_some hseq _

theorem exec_trig_fall {g : Guard} {s : State} (hg : guardHolds g s = true)
    (fall : s.edge = .fall) : exec (.trig g) s = .next (trigFall s).nextPc := by
  refine exec_of_rule (i := .trig g) (e := .writes (trigFall s)) hg ?_
  rw [ruleOf, trigRule, fall]

theorem exec_trig_unchanged {g : Guard} {s : State} (hg : guardHolds g s = true)
    (unchanged : s.edge = .unchanged) : exec (.trig g) s = .next s.nextPc := by
  refine exec_of_rule (i := .trig g) (e := .writes s) hg ?_
  rw [ruleOf, trigRule, unchanged]

/-- Settles O25: on each edge TRIG runs that edge's rule, by the policy and, on a Rise, by the step and
the deadline; its word is of format Z. -/
theorem trigFollowsItsRule : Obligations.TrigFollowsItsRule := by
  unfold Obligations.TrigFollowsItsRule
  refine ⟨fun g s q hg rise hseq inside => ⟨fun other => ?level, fun pulse fits => ?pulse⟩,
    fun g s hg fall => ⟨fun follow => ?follow, fun other => ?held⟩,
    fun g s hg unchanged => exec_trig_unchanged hg unchanged,
    fun g s q hg running rise hseq =>
      ⟨fun outside => ?outside, fun inside pulse late => ?overflow⟩,
    by decide⟩
  case level =>
    rw [exec_trig_rise hg rise hseq, trigRise_of_not_pulse inside other]
    rfl
  case pulse =>
    rw [exec_trig_rise hg rise hseq, trigRise_pulse inside pulse fits]
    rfl
  case follow =>
    rw [exec_trig_fall hg fall, trigFall_follow follow]
    rfl
  case held =>
    rw [exec_trig_fall hg fall, trigFall_of_not_follow other]
    rfl
  case outside =>
    rw [exec_trig_rise hg rise hseq, trigRise_outside outside, finish_faults,
      raise_of_running _ running]
  case overflow =>
    rw [exec_trig_rise hg rise hseq, trigRise_overflow inside pulse late, finish_faults,
      raise_of_running _ running]

end Sys2Proof.Machine

namespace Sys2Proof.Machine

/-! ### SEQCHK (R160) and CHGIND (R161) -/

theorem presetChanged_iff {prev level : Level} :
    presetChanged prev level = true ↔ prev = .low ∧ level = .high := decide_eq_true_iff

@[simp] theorem pointerAfter_true (c : Config) (ptr : Nat) :
    pointerAfter c ptr true = (ptr + 1) % c.table.length := rfl

@[simp] theorem pointerAfter_false (c : Config) (ptr : Nat) : pointerAfter c ptr false = ptr := rfl

@[simp] theorem resAfterSeqchk_true (ptr : Nat) :
    resAfterSeqchk ptr true = BitVec.ofNat 32 (ptr % 256 * 256 + 1) := rfl

@[simp] theorem resAfterSeqchk_false (ptr : Nat) :
    resAfterSeqchk ptr false = BitVec.ofNat 32 (ptr % 256 * 256) :=
  congrArg (BitVec.ofNat 32) (Nat.add_zero _)

theorem seqchkRule_release {s : State} (release : s.presetPrev = .low ∧ s.presetInLevel = .high) :
    seqchkRule s = { s with
      env := s.env.afterPresetIn
      presetPrev := .high
      seqPtr := (s.seqPtr + 1) % s.cfg.table.length
      chg := true
      res := BitVec.ofNat 32 ((s.seqPtr + 1) % s.cfg.table.length % 256 * 256 + 1) } := by
  have changed := presetChanged_iff.2 release
  obtain ⟨-, high⟩ := release
  rw [seqchkRule, changed, high, pointerAfter_true, resAfterSeqchk_true]
  rfl

theorem seqchkRule_keep {s : State}
    (keep : ¬(s.presetPrev = .low ∧ s.presetInLevel = .high)) :
    seqchkRule s = { s with
      env := s.env.afterPresetIn
      presetPrev := s.presetInLevel
      chg := false
      res := BitVec.ofNat 32 (s.seqPtr % 256 * 256) } := by
  have unchanged : presetChanged s.presetPrev s.presetInLevel = false :=
    Bool.eq_false_of_not_eq_true (mt presetChanged_iff.1 keep)
  rw [seqchkRule, unchanged, pointerAfter_false, resAfterSeqchk_false]
  rfl

/-- SEQCHK under a guard that holds is one command: its rule, then the next `PC` (R160, R229). -/
theorem exec_seqchk_of_guard {g : Guard} {s : State} (hg : guardHolds g s = true) :
    exec (.seqchk g) s = .next (seqchkRule s).nextPc :=
  exec_of_rule (i := .seqchk g) hg rfl

/-- Settles O29: SEQCHK's rule at a release and at every other pair of levels; its word is of
format Z. -/
theorem seqchkRecognisesTheRelease : Obligations.SeqchkRecognisesTheRelease := by
  unfold Obligations.SeqchkRecognisesTheRelease
  refine ⟨fun g s hg => ⟨fun release => ?release, fun keep => ?keep⟩, by decide⟩
  case release =>
    rw [exec_seqchk_of_guard hg, seqchkRule_release release]
    rfl
  case keep =>
    rw [exec_seqchk_of_guard hg, seqchkRule_keep keep]
    rfl

/-- Settles O30: the rule of CHGIND writes the level of the flag to `SEQ_CHANGED` alone, and its word
is of format Z. -/
theorem chgindShowsTheFlag : Obligations.ChgindShowsTheFlag := by
  unfold Obligations.ChgindShowsTheFlag
  exact ⟨fun g _ hg => exec_of_rule (i := .chgind g) hg rfl, by decide⟩

end Sys2Proof.Machine

namespace Sys2Proof.Machine

/-! ### The colour mapper and CMAP (R170 to R176) -/

/-- Bytes below an upper part: the concatenation as a number. -/
theorem toNat_append_byte {n : Nat} (x : BitVec n) (b : Byte) :
    (x ++ b).toNat = x.toNat * 256 + b.toNat := by
  rw [BitVec.toNat_append, ← Nat.shiftLeft_add_eq_or_of_lt b.isLt, Nat.shiftLeft_eq]

/-- The numeric layout of `RES` after CMAP is the concatenation of its channels (R27). -/
theorem resAfterCmap_eq_append (c : Color) :
    resAfterCmap c = (0 : BitVec 8) ++ c.r ++ c.g ++ c.b := by
  apply BitVec.eq_of_toNat_eq
  have hr := c.r.isLt
  have hg := c.g.isLt
  have hb := c.b.isLt
  simp only [resAfterCmap, toNat_append_byte, BitVec.toNat_ofNat, BitVec.ofNat_eq_ofNat]
  omega

@[simp] theorem mapColor_none (c : Config) (role : Role) : mapColor c none role = ⟨0, 0, 0⟩ := rfl

@[simp] theorem cmapSlot_true (i : BitVec 4) : cmapSlot true i = some i.toFin := rfl

@[simp] theorem cmapSlot_false (i : BitVec 4) : cmapSlot false i = none := rfl

/-- The rescale of R171 loses nothing: 255 is 17 times 15. -/
theorem hue_eq_mul (n : Nat) : hue n = 17 * n := by
  unfold hue
  omega

theorem mapColor_some (c : Config) (i : Intensity) (role : Role) :
    mapColor c (some i) role = hsv2rgb (17 * i.val) c.sat.toNat (roleVal c role).toNat := by
  rw [mapColor, hue_eq_mul]

/-- CMAP under a guard that holds writes the colour of its slot to `RES` alone (R176, R229). -/
theorem exec_cmap_of_guard {g : Guard} {p : Bool} {i : BitVec 4} {role : Role} {s : State}
    (hg : guardHolds g s = true) :
    exec (.cmap g p i role) s =
      .next { s with res := resAfterCmap (mapColor s.cfg (cmapSlot p i) role) }.nextPc :=
  exec_of_rule (i := .cmap g p i role) hg rfl

/-- Settles O31: the colour is that of the slot `p` and `i` name, the layout of `RES` its channels side
by side; the unset slot's colour is off, so `RES` is 0. -/
theorem cmapReturnsTheColour : Obligations.CmapReturnsTheColour := by
  unfold Obligations.CmapReturnsTheColour
  refine ⟨fun g i role s hg => ?set, fun g i role s hg => ?unset⟩
  case set =>
    rw [exec_cmap_of_guard hg, cmapSlot_true, resAfterCmap_eq_append]
    rfl
  case unset =>
    rw [exec_cmap_of_guard hg, cmapSlot_false, mapColor_none]
    rfl

/-- Settles O32: the hue is `17 * i` exactly, and each role's brightness is its constant. -/
theorem mapUsesHueSaturationAndRole : Obligations.MapUsesHueSaturationAndRole := by
  unfold Obligations.MapUsesHueSaturationAndRole
  intro c i
  exact ⟨rfl, hue_eq_mul i.val, mapColor_some c i .default, mapColor_some c i .curMatch,
    mapColor_some c i .curUnmatch, mapColor_none c⟩

end Sys2Proof.Machine

namespace Sys2Proof.Machine

/-! ### The frame builder, position by position (R192, R193) -/

theorem ledColor_inside {c : Config} {q : Sequence} {cur pos : Nat} {m : Bool}
    (h : pos < q.length) :
    ledColor c q cur m pos = mapColor c (q.slots.getD pos none) (ledRole pos cur m) := if_pos h

theorem ledColor_beyond {c : Config} {q : Sequence} {cur pos : Nat} {m : Bool}
    (h : ¬pos < q.length) : ledColor c q cur m pos = ⟨0, 0, 0⟩ := if_neg h

/-- The match flag of a step inside the sequence is that its slot is active (R16, R190). -/
theorem stepMatches_iff_of_inside {q : Sequence} {cur : Nat} (h : cur < q.length) :
    stepMatches q cur = true ↔ 0 < intensityOrZero q cur := by
  rw [stepMatches, decide_eq_true h, Bool.true_and, active_iff]

/-- At a position inside the sequence the role reads the intensity of the step alone: the position is
the step, and so the step is inside, or the match flag is not read (R190, R193). -/
theorem ledRole_stepMatches {q : Sequence} {pos : Nat} (cur : Nat) (h : pos < q.length) :
    ledRole pos cur (stepMatches q cur) =
      if pos ≠ cur then .default
      else if 0 < intensityOrZero q cur then .curMatch else .curUnmatch := by
  by_cases hcur : pos = cur
  · subst hcur
    simp only [ledRole, stepMatches_iff_of_inside h]
  · rw [ledRole, if_pos hcur, if_pos hcur]

/-! ### RENDER and RENDERX under a guard that holds (R190, R191) -/

theorem exec_render_of_guard {g : Guard} {s : State} {q : Sequence}
    (hg : guardHolds g s = true) (hseq : s.seq? = some q) :
    exec (.render g) s = .next { s with
      fb := buildFrame s.cfg q s.stepReg.toNat (stepMatches q s.stepReg.toNat) }.nextPc :=
  exec_of_rule (i := .render g) hg (withSeq_some hseq _)

theorem exec_renderx_of_guard {g : Guard} {cur : BitVec 3} {m : Bool} {s : State} {q : Sequence}
    (hg : guardHolds g s = true) (hseq : s.seq? = some q) :
    exec (.renderx g cur m) s = .next { s with
      fb := buildFrame s.cfg q cur.toNat m }.nextPc :=
  exec_of_rule (i := .renderx g cur m) hg (withSeq_some hseq _)

/-- Settles O36: the frame RENDER builds, at a position inside the sequence and at one beyond it. -/
theorem renderBuildsTheFrame : Obligations.RenderBuildsTheFrame := by
  unfold Obligations.RenderBuildsTheFrame
  intro g s q hg hseq
  refine ⟨_, exec_render_of_guard hg hseq, buildFrame_length .., fun pos hpos => ?_⟩
  rw [buildFrame_get hpos]
  by_cases inside : pos < q.length
  · rw [ledColor_inside inside, ledRole_stepMatches _ inside, if_pos inside]
  · rw [ledColor_beyond inside, if_neg inside]

/-- Settles O37: the frame RENDERX builds from its operands, at a position inside the sequence and at
one beyond it. -/
theorem renderxBuildsTheFrame : Obligations.RenderxBuildsTheFrame := by
  unfold Obligations.RenderxBuildsTheFrame
  intro g cur m s q hg hseq
  refine ⟨_, exec_renderx_of_guard hg hseq, buildFrame_length .., fun pos hpos => ?_⟩
  rw [buildFrame_get hpos]
  by_cases inside : pos < q.length
  · rw [ledColor_inside inside, ledRole, if_pos inside]
  · rw [ledColor_beyond inside, if_neg inside]

/-! ### The diffing engine (R195, R197) -/

theorem writeRule_unchanged {s : State} (sent : s.frameSent) : writeRule s = .writes s := if_pos sent

theorem writeRule_transmits {s : State} (changed : ¬s.frameSent) (ok : s.busOutcome = .ok) :
    writeRule s = .writes (transmitted s) := by
  obtain ⟨sent, -⟩ | ⟨-, -, rule⟩ | ⟨-, fail, -⟩ := writeRule_cases s
  · exact absurd sent changed
  · exact rule
  · exact nomatch ok.symm.trans fail

theorem writeRule_fails {s : State} (changed : ¬s.frameSent) (fail : s.busOutcome = .fail) :
    writeRule s = .faults s.busUsed .ledTransmitFailure := by
  obtain ⟨sent, -⟩ | ⟨-, ok, -⟩ | ⟨-, -, rule⟩ := writeRule_cases s
  · exact absurd sent changed
  · exact nomatch ok.symm.trans fail
  · exact rule

/-- WRITE under a guard that holds is one command: its rule, then the next `PC` or the halt (R195,
R229). -/
theorem exec_write_of_guard {g : Guard} {s : State} (hg : guardHolds g s = true) :
    exec (.write g) s = .next (writeRule s).finish :=
  exec_of_rule (i := .write g) hg rfl

/-- Settles O38: WRITE's rule on an unchanged frame and on each outcome of a transmission; its word is
of format Z. -/
theorem writeTransmitsOnChange : Obligations.WriteTransmitsOnChange := by
  unfold Obligations.WriteTransmitsOnChange
  refine ⟨fun g s hg => ⟨fun sent => ?unchanged, fun changed ok => ?transmits,
    fun changed fail running => ?fails⟩, by decide⟩
  case unchanged =>
    rw [exec_write_of_guard hg, writeRule_unchanged sent]
    rfl
  case transmits =>
    rw [exec_write_of_guard hg, writeRule_transmits changed ok]
    rfl
  case fails =>
    rw [exec_write_of_guard hg, writeRule_fails changed fail, finish_faults,
      raise_of_running (s := s.busUsed) _ running]
    rfl

end Sys2Proof.Machine

namespace Sys2Proof.Machine

/-! ### The gates and the rule of STEPOUT, case by case (R220) -/

/-- Each gate is high exactly when it is the gate of a step with a positive intensity. -/
theorem gatesAfter_get {count n : Nat} (step value : Nat) (h : n < count) :
    (gatesAfter count step value)[n]? =
      some (if 0 < value ∧ n = step then .high else .low) := by
  have low : (List.replicate count Level.low)[n]? = some .low := List.getElem?_replicate_of_lt h
  by_cases matching : 0 < value
  · rw [gatesAfter, if_pos matching]
    by_cases own : n = step
    · rw [if_pos ⟨matching, own⟩, ← own, List.getElem?_set_self (by rwa [List.length_replicate])]
    · rw [if_neg fun both => own both.2, List.getElem?_set_ne (Ne.symm own), low]
  · rw [gatesAfter, if_neg matching, if_neg fun both => matching both.1, low]

theorem stepoutRule_drives {q : Sequence} {s : State} (inside : s.stepReg.toNat < q.length)
    (gate : intensityOrZero q s.stepReg.toNat = 0 ∨ s.stepReg.toNat < s.cfg.gateCount) :
    stepoutRule q s = .writes { s with
      dac := BitVec.ofNat 4 (intensityOrZero q s.stepReg.toNat)
      gates :=
        gatesAfter s.cfg.gateCount s.stepReg.toNat (intensityOrZero q s.stepReg.toNat) } := by
  obtain ⟨bad, -⟩ | ⟨-, -, rule⟩ := stepoutRule_cases q s
  · omega
  · exact rule

theorem stepoutRule_faults {q : Sequence} {s : State}
    (bad : q.length ≤ s.stepReg.toNat ∨
      (0 < intensityOrZero q s.stepReg.toNat ∧ s.cfg.gateCount ≤ s.stepReg.toNat)) :
    stepoutRule q s = .faults s .invariantViolation := by
  obtain ⟨-, rule⟩ | ⟨inside, gate, -⟩ := stepoutRule_cases q s
  · exact rule
  · omega

theorem exec_stepout_of_guard {g : Guard} {s : State} {q : Sequence}
    (hg : guardHolds g s = true) (hseq : s.seq? = some q) :
    exec (.stepout g) s = .next (stepoutRule q s).finish :=
  exec_of_rule (i := .stepout g) hg (withSeq_some hseq _)

/-- Settles O41: STEPOUT's rule on a step it can drive and on each step it refuses. -/
theorem stepoutDrivesDacAndGates : Obligations.StepoutDrivesDacAndGates := by
  unfold Obligations.StepoutDrivesDacAndGates
  intro g s q hg hseq
  rw [exec_stepout_of_guard hg hseq]
  refine ⟨fun inside gate => ?drives, fun running bad => ?faults⟩
  case drives =>
    rw [stepoutRule_drives inside gate]
    exact ⟨_, rfl, gatesAfter_length .., fun _ => gatesAfter_get _ _⟩
  case faults =>
    rw [stepoutRule_faults bad, finish_faults, raise_of_running _ running]

end Sys2Proof.Machine

namespace Sys2Proof

/-! ### Encoding, then decoding (R80 to R88) -/

theorem decodeZ_zero (i : Instr) : decodeZ 0 0 0 i = .ok i := rfl

theorem decodeT_code (g : Guard) (kind : TaskKind) (fireAt : Time) :
    decodeT g kind.code 0 fireAt = .ok (.sched g kind fireAt) := by
  simp [decodeT]

theorem decodeR_operands (g : Guard) (cur : BitVec 3) (m : Bool) :
    decodeR g 0 ((0 : BitVec 12) ++ BitVec.ofBool m ++ cur) 0 = .ok (.renderx g cur m) := by
  rw [decodeR, renderOperands_zero, renderOperands_cur, renderOperands_m]
  rfl

theorem decodeC_operands (g : Guard) {p : Bool} {i : BitVec 4} (role : Role)
    (legal : p = true ∨ i = 0) :
    decodeC g ((0 : BitVec 2) ++ role.bits) ((0 : BitVec 11) ++ BitVec.ofBool p ++ i) 0 =
      .ok (.cmap g p i role) := by
  rw [decodeC, roleField_zero, roleField_role, cmapOperands_zero, cmapOperands_p, cmapOperands_i,
    Role.ofBits_bits]
  exact (if_pos ⟨rfl, rfl, rfl⟩).trans (if_pos legal)

/-- Settles O2: the fields of a packed word are read back, and each format gives back the operands
that its fields were packed from. -/
theorem encodeThenDecode : Obligations.EncodeThenDecode := by
  unfold Obligations.EncodeThenDecode
  intro i legal
  cases i with
  | sched g kind fireAt => exact (decode_packWord ..).trans (decodeT_code g kind fireAt)
  | renderx g cur m => exact (decode_packWord ..).trans (decodeR_operands g cur m)
  | cmap g p i role => exact (decode_packWord ..).trans (decodeC_operands g role legal)
  | _ g => exact (decode_packWord ..).trans (decodeZ_zero _)

/-! ### A decoded command is well formed (R93) -/

/-- A row of format Z holds no operand to check. -/
theorem wellFormed_of_decodeZ {k : BitVec 4} {a : BitVec 16} {imm : BitVec 32} {i j : Instr}
    (hi : i.WellFormed) (h : decodeZ k a imm i = .ok j) : j.WellFormed := by
  obtain ⟨-, -, -, rfl⟩ := decodeZ_ok h
  exact hi

theorem wellFormed_of_decodeOperands {o : Opcode} {g : Guard} {k : BitVec 4} {a : BitVec 16}
    {imm : BitVec 32} {i : Instr} (h : decodeOperands o g k a imm = .ok i) : i.WellFormed := by
  cases o with
  | sched =>
    obtain ⟨kind, -, -, rfl⟩ := decodeT_ok h
    trivial
  | renderx =>
    obtain ⟨-, -, -, rfl⟩ := decodeR_ok h
    trivial
  | cmap =>
    obtain ⟨role, -, legal, -, -, -, rfl⟩ := decodeC_ok h
    exact legal
  | _ => exact wellFormed_of_decodeZ trivial h

/-- Settles O3: the operands of the row decoded to are legal, and encoding puts every field back. -/
theorem decodeThenEncode : Obligations.DecodeThenEncode := by
  unfold Obligations.DecodeThenEncode
  intro w i h
  obtain ⟨o, g, -, -, -, operands⟩ := decode_ok h
  exact ⟨wellFormed_of_decodeOperands operands, encode_of_decode h⟩

/-! ### What the masks check, field by field (R81 to R84) -/

/-- A row's match has zero below `op`, so the fields of a word that meets it are zero under the
row's mask. -/
theorem fields_and_mask {w : Word} {o : Opcode} (h : w &&& o.mask = o.pattern) :
    kField w &&& kField o.mask = 0 ∧ aField w &&& aField o.mask = 0 ∧
      immField w &&& immField o.mask = 0 := by
  have pattern : kField o.pattern = 0 ∧ aField o.pattern = 0 ∧ immField o.pattern = 0 := by
    cases o <;> decide
  rw [← h] at pattern
  simpa only [kField, aField, immField, BitVec.extractLsb'_and] using pattern

theorem renderOperands_of_and_mask {a : BitVec 16} (h : a &&& 0xFFF0 = 0) :
    a.extractLsb' 4 12 = 0 := by
  have masked : a.extractLsb' 4 12 &&& (0xFFF0 : BitVec 16).extractLsb' 4 12 = 0 := by
    rw [← BitVec.extractLsb'_and, h]
    rfl
  exact BitVec.and_allOnes.symm.trans masked

theorem cmapOperands_of_and_mask {a : BitVec 16} (h : a &&& 0xFFE0 = 0) :
    a.extractLsb' 5 11 = 0 := by
  have masked : a.extractLsb' 5 11 &&& (0xFFE0 : BitVec 16).extractLsb' 5 11 = 0 := by
    rw [← BitVec.extractLsb'_and, h]
    rfl
  exact BitVec.and_allOnes.symm.trans masked

theorem roleField_of_and_mask {k : BitVec 4} (h : k &&& 0xC = 0) : k.extractLsb' 2 2 = 0 := by
  revert k; decide

/-! ### A word that passes the checks of its row decodes (R85) -/

theorem Guard.exists_bits {b : BitVec 2} (h : b ≠ 3) : ∃ g : Guard, b = g.bits := by
  have values : b = 0 ∨ b = 1 ∨ b = 2 := by revert b; decide
  obtain rfl | rfl | rfl := values
  · exact ⟨.always, rfl⟩
  · exact ⟨.chg, rfl⟩
  · exact ⟨.rise, rfl⟩

theorem Role.exists_bits {b : BitVec 2} (h : b ≠ 3) : ∃ r : Role, b = r.bits := by
  have values : b = 0 ∨ b = 1 ∨ b = 2 := by revert b; decide
  obtain rfl | rfl | rfl := values
  · exact ⟨.default, rfl⟩
  · exact ⟨.curMatch, rfl⟩
  · exact ⟨.curUnmatch, rfl⟩

/-- Under a mask that fixes every operand bit the three fields are zero, as format Z asks. -/
theorem decodeZ_of_and_mask {k : BitVec 4} {a : BitVec 16} {imm : BitVec 32} (i : Instr)
    (hk : k &&& 0xF = 0) (ha : a &&& 0xFFFF = 0) (himm : imm &&& 0xFFFFFFFF = 0) :
    decodeZ k a imm i = .ok i := by
  obtain rfl : k = 0 := BitVec.and_allOnes.symm.trans hk
  obtain rfl : a = 0 := BitVec.and_allOnes.symm.trans ha
  obtain rfl : imm = 0 := BitVec.and_allOnes.symm.trans himm
  rfl

theorem decodeT_of_and_mask {k : BitVec 4} {a : BitVec 16} (g : Guard) (imm : BitVec 32)
    (hk : k = 1) (ha : a &&& 0xFFFF = 0) :
    decodeT g k a imm = .ok (.sched g .trigLow imm) := by
  obtain rfl : a = 0 := BitVec.and_allOnes.symm.trans ha
  rw [hk]
  exact decodeT_code g .trigLow imm

theorem decodeR_of_and_mask {k : BitVec 4} {a : BitVec 16} {imm : BitVec 32} (g : Guard)
    (hk : k &&& 0xF = 0) (ha : a &&& 0xFFF0 = 0) (himm : imm &&& 0xFFFFFFFF = 0) :
    decodeR g k a imm = .ok (.renderx g (a.extractLsb' 0 3) (a.getLsbD 3)) := by
  obtain rfl : k = 0 := BitVec.and_allOnes.symm.trans hk
  obtain rfl : imm = 0 := BitVec.and_allOnes.symm.trans himm
  exact if_pos ⟨rfl, renderOperands_of_and_mask ha, rfl⟩

theorem decodeC_of_and_mask {k : BitVec 4} {a : BitVec 16} {imm : BitVec 32} (g : Guard)
    (hk : k &&& 0xC = 0) (ha : a &&& 0xFFE0 = 0) (himm : imm &&& 0xFFFFFFFF = 0)
    (hrole : k.extractLsb' 0 2 ≠ 3) (legal : a.getLsbD 4 = true ∨ a.extractLsb' 0 4 = 0) :
    ∃ role, decodeC g k a imm = .ok (.cmap g (a.getLsbD 4) (a.extractLsb' 0 4) role) := by
  obtain rfl : imm = 0 := BitVec.and_allOnes.symm.trans himm
  obtain ⟨role, bits⟩ := Role.exists_bits hrole
  refine ⟨role, ?_⟩
  rw [decodeC, bits, Role.ofBits_bits]
  exact (if_pos ⟨roleField_of_and_mask hk, cmapOperands_of_and_mask ha, rfl⟩).trans (if_pos legal)

/-- The operand checks of R85 are those of the row's mask and of R93. -/
theorem decodeOperands_of_and_mask {w : Word} {o : Opcode} (g : Guard)
    (hm : w &&& o.mask = o.pattern) (hsched : o = .sched → kField w = 1)
    (hcmap : o = .cmap → (kField w).extractLsb' 0 2 ≠ 3 ∧
      ((aField w).getLsbD 4 = true ∨ (aField w).extractLsb' 0 4 = 0)) :
    ∃ i, decodeOperands o g (kField w) (aField w) (immField w) = .ok i := by
  obtain ⟨hk, ha, himm⟩ := fields_and_mask hm
  cases o with
  | sched => exact ⟨_, decodeT_of_and_mask g _ (hsched rfl) ha⟩
  | renderx => exact ⟨_, decodeR_of_and_mask g hk ha himm⟩
  | cmap =>
    obtain ⟨hrole, legal⟩ := hcmap rfl
    obtain ⟨role, decoded⟩ := decodeC_of_and_mask g hk ha himm hrole legal
    exact ⟨_, decoded⟩
  | _ => exact ⟨_, decodeZ_of_and_mask _ hk ha himm⟩

/-- Settles O4: each check holds of a word that decodes, and a word that passes them is its packed
fields, whose operands decode. -/
theorem decodeAcceptsExactlyTheTable : Obligations.DecodeAcceptsExactlyTheTable := by
  unfold Obligations.DecodeAcceptsExactlyTheTable
  intro w
  constructor
  · rintro ⟨i, h⟩
    obtain ⟨o, g, hz, -, ho, -⟩ := decode_ok h
    refine ⟨hz, guardField_ne_three_of_decode h, o, ho, and_mask_of_decode h ho, ?_, ?_⟩
    · rintro rfl
      exact kField_of_decode_sched h ho
    · rintro rfl
      exact operands_of_decode_cmap h ho
  · rintro ⟨hz, hg, o, ho, hm, hsched, hcmap⟩
    obtain ⟨g, bits⟩ := Guard.exists_bits hg
    obtain ⟨i, operands⟩ := decodeOperands_of_and_mask g hm hsched hcmap
    refine ⟨i, ?_⟩
    rw [← packed_fields hz ho bits, decode_packWord]
    exact operands

/-- Settles O1: the decoder evaluated on each word. -/
theorem specWordsDecode : Obligations.SpecWordsDecode := by
  unfold Obligations.SpecWordsDecode
  refine ⟨?_, ?_, ?_, ?_, ?_, ?_, ?_, ?_, ?_, ?_, ?_, ?_, ?_, ?_⟩ <;> decide

end Sys2Proof

namespace Sys2Proof.Machine

/-! ### What a command may write (10_state.md section 2)

The table of writers as one relation, which the frame, the faults, the history, the latch and the
invariant are read off. -/

/-- `Writes s o u`: the rule of a command with opcode `o` may leave the writes of `u` on `s`. A
value is left open where no claim needs it. -/
inductive Writes (s : State) : Opcode → State → Prop where
  | nothing (o : Opcode) : Writes s o s
  | now (res : BitVec 32) : Writes s .now { s with res := res }
  | sched (task : TaskSlot) : Writes s .sched { s with task := task }
  | poll : Writes s .poll { s with task := .empty, trigOut := .low }
  | clkchk (env : Env) (extLatch edge : Edge) (lastTick : Time) (stepReg : BitVec 3)
      (res : BitVec 32) (kept : s.extLatch ≠ .unchanged → extLatch ≠ .unchanged) :
      Writes s .clkchk { s with
        env := env, extLatch := extLatch, lastTick := lastTick, stepReg := stepReg, edge := edge
        res := res }
  | clkrst : Writes s .clkrst { s with stepReg := 0 }
  | trig (trigOut : Level) (task : TaskSlot) :
      Writes s .trig { s with trigOut := trigOut, task := task }
  | seqchk (env : Env) (presetPrev : Level) (chg : Bool) (res : BitVec 32) :
      Writes s .seqchk { s with
        env := env, presetPrev := presetPrev, seqPtr := pointerAfter s.cfg s.seqPtr chg, chg := chg
        res := res }
  | chgind (seqChanged : Level) : Writes s .chgind { s with seqChanged := seqChanged }
  | cmap (res : BitVec 32) : Writes s .cmap { s with res := res }
  | render (q : Sequence) (cur : Nat) (m : Bool) :
      Writes s .render { s with fb := buildFrame s.cfg q cur m }
  | renderx (q : Sequence) (cur : Nat) (m : Bool) :
      Writes s .renderx { s with fb := buildFrame s.cfg q cur m }
  | transmits : Writes s .write (transmitted s)
  | fails : Writes s .write s.busUsed
  | stepout (dac : BitVec 4) (step value : Nat) :
      Writes s .stepout { s with dac := dac, gates := gatesAfter s.cfg.gateCount step value }

theorem pollRule_writes (s : State) : Writes s .poll (pollRule s) := by
  cases slot : s.task with
  | empty =>
    rw [pollRule_empty slot]
    exact .nothing .poll
  | pending kind t =>
    obtain early | due := Nat.lt_or_ge s.millis.toNat t.toNat
    · rw [pollRule_early slot early]
      exact .nothing .poll
    · rw [pollRule_due slot due]
      exact .poll

/-- The registers of each variant after a classification; the latch takes an edge that is not
Unchanged, or stays (R131). -/
theorem clkLatched_cases (s : State) (e : Edge) :
    ∃ env extLatch lastTick, (s.extLatch ≠ .unchanged → extLatch ≠ .unchanged) ∧
      clkLatched s e = { s with env := env, extLatch := extLatch, lastTick := lastTick } := by
  cases variant : s.cfg.clkVariant with
  | external =>
    by_cases he : e = .unchanged
    · rw [he, clkLatched_external_unchanged variant]
      exact ⟨_, _, _, id, rfl⟩
    · rw [clkLatched_external variant he]
      exact ⟨_, _, _, fun _ => he, rfl⟩
  | internal =>
    by_cases he : e = .rise
    · rw [he, clkLatched_internal_rise variant]
      exact ⟨_, _, _, id, rfl⟩
    · rw [clkLatched_internal variant he]
      exact ⟨_, _, _, id, rfl⟩

theorem clkchkRule_writes (q : Sequence) (s : State) : Writes s .clkchk (clkchkRule q s) := by
  obtain ⟨env, extLatch, lastTick, kept, latched⟩ := clkLatched_cases s (clkEdge s)
  rw [clkchkRule, latched]
  exact .clkchk _ _ _ _ _ _ kept

theorem trigRise_writes (q : Sequence) (s : State) : Writes s .trig (trigRise q s).after := by
  obtain ⟨-, rule⟩ | ⟨-, -, -, rule⟩ | ⟨-, -, -, rule⟩ | ⟨-, -, rule⟩ := trigRise_cases q s
  · exact rule ▸ .nothing .trig
  · exact rule ▸ .nothing .trig
  · exact rule ▸ .trig _ _
  · exact rule ▸ .trig _ s.task

theorem trigFall_writes (s : State) : Writes s .trig (trigFall s) := by
  by_cases follow : s.cfg.policy = .follow
  · rw [trigFall_follow follow]
    exact .trig .low s.task
  · rw [trigFall_of_not_follow follow]
    exact .nothing .trig

/-- TRIG's rule by the edge: it reads the sequence on a Rise only (R150, R151). -/
theorem trigRule_cases {s : State} {e : Effect} (h : trigRule s = .ok e) :
    (s.edge = .rise ∧ ∃ q, s.seq? = some q ∧ e = trigRise q s) ∨
      (s.edge = .fall ∧ e = .writes (trigFall s)) ∨ (s.edge = .unchanged ∧ e = .writes s) := by
  unfold trigRule at h
  split at h
  · next rise => exact .inl ⟨rise, withSeq_ok h⟩
  · next fall => cases h; exact .inr (.inl ⟨fall, rfl⟩)
  · next unchanged => cases h; exact .inr (.inr ⟨unchanged, rfl⟩)

theorem trigRule_writes {s : State} {e : Effect} (h : trigRule s = .ok e) :
    Writes s .trig e.after := by
  obtain ⟨-, q, -, rfl⟩ | ⟨-, rfl⟩ | ⟨-, rfl⟩ := trigRule_cases h
  · exact trigRise_writes q s
  · exact trigFall_writes s
  · exact .nothing .trig

theorem writeRule_writes (s : State) : Writes s .write (writeRule s).after := by
  obtain ⟨-, rule⟩ | ⟨-, -, rule⟩ | ⟨-, -, rule⟩ := writeRule_cases s
  · exact rule ▸ .nothing .write
  · exact rule ▸ .transmits
  · exact rule ▸ .fails

theorem stepoutRule_writes (q : Sequence) (s : State) :
    Writes s .stepout (stepoutRule q s).after := by
  obtain ⟨-, rule⟩ | ⟨-, -, rule⟩ := stepoutRule_cases q s
  · exact rule ▸ .nothing .stepout
  · exact rule ▸ .stepout _ _ _

/-- Every command's rule keeps to its row of the table of writers. -/
theorem ruleOf_writes {i : Instr} {s : State} {e : Effect} (h : ruleOf i s = .ok e) :
    Writes s i.opcode e.after := by
  cases i with
  | now g => cases h; exact .now _
  | sched g kind fireAt => cases h; exact .sched _
  | poll g => cases h; exact pollRule_writes s
  | clkchk g =>
    obtain ⟨q, -, rfl⟩ := withSeq_ok h
    exact clkchkRule_writes q s
  | clkrst g => cases h; exact .clkrst
  | trig g => exact trigRule_writes h
  | seqchk g => cases h; exact .seqchk _ _ _ _
  | chgind g => cases h; exact .chgind _
  | cmap g p i role => cases h; exact .cmap _
  | render g =>
    obtain ⟨q, -, rfl⟩ := withSeq_ok h
    exact .render q _ _
  | renderx g cur m =>
    obtain ⟨q, -, rfl⟩ := withSeq_ok h
    exact .renderx q _ _
  | write g => cases h; exact writeRule_writes s
  | stepout g =>
    obtain ⟨q, -, rfl⟩ := withSeq_ok h
    exact stepoutRule_writes q s
  | halt g => cases h; exact .nothing .halt

/-- No rule writes `PC`, `HALTED`, `CAUSE` or the configuration: the end of the command does (R229,
R256). -/
theorem Writes.control {s u : State} {o : Opcode} (h : Writes s o u) :
    u.pc = s.pc ∧ u.halted = s.halted ∧ u.cause = s.cause ∧ u.cfg = s.cfg := by
  cases h <;> exact ⟨rfl, rfl, rfl, rfl⟩

/-! ### Which command raises which fault (R250, R256) -/

/-- The faults of the commands: a command with opcode `o` may raise `c` (R250). -/
def RaisedBy (c : Cause) (o : Opcode) : Prop :=
  (c = .invariantViolation ∧ (o = .trig ∨ o = .stepout)) ∨
    (c = .ledTransmitFailure ∧ o = .write) ∨
    (c = .timeOverflow ∧ o = .trig) ∨
    (c = .softwareHalt ∧ o = .halt)

theorem RaisedBy.ne_none {c : Cause} {o : Opcode} (h : RaisedBy c o) : c ≠ .none := by
  obtain ⟨rfl, -⟩ | ⟨rfl, -⟩ | ⟨rfl, -⟩ | ⟨rfl, -⟩ := h <;> decide

/-- A rule's effect under opcode `o` from `s`: where it raises a fault, the fault is one of the
command's, and it holds no write but the environment's choices used up (R250, R256). -/
def FaultsOnly (o : Opcode) (s : State) (e : Effect) : Prop :=
  ∀ c, e.raises = some c → RaisedBy c o ∧ ∃ env, e.after = s.withEnv env

theorem FaultsOnly.of_writes {o : Opcode} {s u : State} : FaultsOnly o s (.writes u) :=
  fun _ raises => nomatch raises

theorem FaultsOnly.of_faults {o : Opcode} {s : State} {c : Cause} (env : Env)
    (h : RaisedBy c o) : FaultsOnly o s (.faults (s.withEnv env) c) := by
  intro c' raises
  cases raises
  exact ⟨h, env, rfl⟩

theorem trigRise_faultsOnly (q : Sequence) (s : State) : FaultsOnly .trig s (trigRise q s) := by
  obtain ⟨-, rule⟩ | ⟨-, -, -, rule⟩ | ⟨-, -, -, rule⟩ | ⟨-, -, rule⟩ := trigRise_cases q s
  · exact rule ▸ .of_faults s.env (.inl ⟨rfl, .inl rfl⟩)
  · exact rule ▸ .of_faults s.env (.inr (.inr (.inl ⟨rfl, rfl⟩)))
  · exact rule ▸ .of_writes
  · exact rule ▸ .of_writes

theorem trigRule_faultsOnly {s : State} {e : Effect} (h : trigRule s = .ok e) :
    FaultsOnly .trig s e := by
  obtain ⟨-, q, -, rfl⟩ | ⟨-, rfl⟩ | ⟨-, rfl⟩ := trigRule_cases h
  · exact trigRise_faultsOnly q s
  · exact .of_writes
  · exact .of_writes

theorem writeRule_faultsOnly (s : State) : FaultsOnly .write s (writeRule s) := by
  obtain ⟨-, rule⟩ | ⟨-, -, rule⟩ | ⟨-, -, rule⟩ := writeRule_cases s
  · exact rule ▸ .of_writes
  · exact rule ▸ .of_writes
  · exact rule ▸ .of_faults s.env.afterBus (.inr (.inl ⟨rfl, rfl⟩))

theorem stepoutRule_faultsOnly (q : Sequence) (s : State) :
    FaultsOnly .stepout s (stepoutRule q s) := by
  obtain ⟨-, rule⟩ | ⟨-, -, rule⟩ := stepoutRule_cases q s
  · exact rule ▸ .of_faults s.env (.inl ⟨rfl, .inr rfl⟩)
  · exact rule ▸ .of_writes

/-- Every command's rule: those left to the last case raise nothing. -/
theorem ruleOf_faultsOnly {i : Instr} {s : State} {e : Effect} (h : ruleOf i s = .ok e) :
    FaultsOnly i.opcode s e := by
  cases i with
  | trig g => exact trigRule_faultsOnly h
  | write g => cases h; exact writeRule_faultsOnly s
  | stepout g =>
    obtain ⟨q, -, rfl⟩ := withSeq_ok h
    exact stepoutRule_faultsOnly q s
  | halt g => cases h; exact .of_faults s.env (.inr (.inr (.inr ⟨rfl, rfl⟩)))
  | clkchk | render | renderx =>
    obtain ⟨q, -, rfl⟩ := withSeq_ok h
    exact .of_writes
  | _ => cases h; exact .of_writes

/-- A command that answers a next state was skipped, or wrote what its row allows and then moved
`PC` on or raised a fault. -/
theorem exec_writes {i : Instr} {s t : State} (h : exec i s = .next t) :
    ∃ u, Writes s i.opcode u ∧ (t = u.nextPc ∨ ∃ c, c ≠ .none ∧ t = u.raise c) := by
  obtain ⟨-, rfl⟩ | ⟨-, e, rule, rfl⟩ := exec_cases h
  · exact ⟨s, .nothing _, .inl rfl⟩
  · refine ⟨e.after, ruleOf_writes rule, ?_⟩
    obtain ⟨-, moved⟩ | ⟨c, raises, raised⟩ := finish_cases e
    · exact .inl moved
    · obtain ⟨byCommand, -⟩ := ruleOf_faultsOnly rule c raises
      exact .inr ⟨c, byCommand.ne_none, raised⟩

/-- A command that answers a next state moved `PC` on and left the halt and its cause, or raised
one of its faults and wrote nothing else (R229, R256). -/
theorem exec_ends {i : Instr} {s t : State} (h : exec i s = .next t) :
    (t.halted = s.halted ∧ t.cause = s.cause ∧ t.pc = (s.pc + 1) % s.cfg.prog.length) ∨
      ∃ c env, RaisedBy c i.opcode ∧ t = (s.withEnv env).raise c := by
  obtain ⟨-, rfl⟩ | ⟨-, e, rule, rfl⟩ := exec_cases h
  · exact .inl ⟨rfl, rfl, rfl⟩
  · obtain ⟨-, moved⟩ | ⟨c, raises, raised⟩ := finish_cases e
    · obtain ⟨hpc, hhalted, hcause, hcfg⟩ := (ruleOf_writes rule).control
      rw [moved]
      exact .inl ⟨hhalted, hcause, by rw [nextPc_pc, hpc, hcfg]⟩
    · obtain ⟨byCommand, env, after⟩ := ruleOf_faultsOnly rule c raises
      exact .inr ⟨c, env, byCommand, by rw [raised, after]⟩

/-- Settles O11: a command ends in one of two ways, and the cause of a raised fault
is never `none`. -/
theorem faultsArePrecise : Obligations.FaultsArePrecise := by
  unfold Obligations.FaultsArePrecise
  intro i s t running h
  obtain ⟨hhalted, hcause, hpc⟩ | ⟨c, env, byCommand, rfl⟩ := exec_ends h
  · exact .inr ⟨hhalted.trans running, hcause, hpc⟩
  · rw [raise_of_running (s := s.withEnv env) c running]
    exact .inl ⟨rfl, byCommand.ne_none⟩

/-- Settles O43: the rule of HALT raises its fault with no write before it; its word is of format
Z. -/
theorem haltRaisesSoftwareHalt : Obligations.HaltRaisesSoftwareHalt := by
  unfold Obligations.HaltRaisesSoftwareHalt
  refine ⟨fun g s hg running => ?_, by decide⟩
  rw [exec_of_rule (i := .halt g) hg rfl, finish_faults, raise_of_running _ running]

/-! ### The frames (10_state.md section 2) -/

/-- The frame of the clock, flag and scheduler registers for a command with opcode `o`. -/
def ClockFlagSlotFrame (o : Opcode) (s t : State) : Prop :=
  (o ≠ .clkchk → o ≠ .clkrst → t.stepReg = s.stepReg) ∧
  (o ≠ .clkchk → t.extLatch = s.extLatch ∧ t.lastTick = s.lastTick ∧ t.edge = s.edge) ∧
  (o ≠ .seqchk → t.chg = s.chg ∧ t.seqPtr = s.seqPtr ∧ t.presetPrev = s.presetPrev) ∧
  (o ≠ .sched → o ≠ .trig → o ≠ .poll → t.task = s.task) ∧
  (o ≠ .now → o ≠ .clkchk → o ≠ .seqchk → o ≠ .cmap → t.res = s.res)

/-- The frame of the frame stores, the bus history and the output pins for a command with opcode
`o`. -/
def StoreAndPinFrame (o : Opcode) (s t : State) : Prop :=
  (o ≠ .render → o ≠ .renderx → t.fb = s.fb) ∧
  (o ≠ .write → t.lastV = s.lastV ∧ t.last = s.last ∧ t.tx = s.tx) ∧
  (o ≠ .trig → o ≠ .poll → t.trigOut = s.trigOut) ∧
  (o ≠ .chgind → t.seqChanged = s.seqChanged) ∧
  (o ≠ .stepout → t.gates = s.gates ∧ t.dac = s.dac)

theorem Writes.clockFlagSlotFrame {s u : State} {o : Opcode} (h : Writes s o u) :
    ClockFlagSlotFrame o s u := by
  cases h <;> simp [ClockFlagSlotFrame, transmitted]

theorem Writes.storeAndPinFrame {s u : State} {o : Opcode} (h : Writes s o u) :
    StoreAndPinFrame o s u := by
  cases h <;> simp [StoreAndPinFrame, transmitted]

/-- Settles O50: the table of writers holds the frame, and the end of a command writes none of these
registers. -/
theorem clockFlagAndSlotWriters : Obligations.ClockFlagAndSlotWriters := by
  unfold Obligations.ClockFlagAndSlotWriters
  intro i s t h
  obtain ⟨u, writes, rfl | ⟨c, -, rfl⟩⟩ := exec_writes h
  · exact writes.clockFlagSlotFrame
  · exact writes.clockFlagSlotFrame

/-- Settles O51: the table of writers holds the frame, and the end of a command writes none of these
stores and pins. -/
theorem frameStoreAndPinWriters : Obligations.FrameStoreAndPinWriters := by
  unfold Obligations.FrameStoreAndPinWriters
  intro i s t h
  obtain ⟨u, writes, rfl | ⟨c, -, rfl⟩⟩ := exec_writes h
  · exact writes.storeAndPinFrame
  · exact writes.storeAndPinFrame

/-! ### The main agent's step (R229) -/

theorem step_of_decode_ok {s : State} {w : Word} {i : Instr} (hf : s.Fetches w)
    (hi : decode w = .ok i) : step s = exec i s.turnTaken := by
  rw [step_of_fetches hf, runWord, hi]

theorem mainStep_of_halted {s : State} (hhalt : s.halted = true) : mainStep s = .next s :=
  if_pos hhalt

/-- In a halted block the main agent's turn passes (log entry 11). -/
theorem step_main_of_halted {s : State} (hwf : s.cfg.WF) (hhalt : s.halted = true)
    (hturn : s.turn = .main) : step s = .next s.turnTaken := by
  rw [step_of_wf hwf, hturn, agentStep]
  exact mainStep_of_halted (s := s.turnTaken) hhalt

/-- Settles O8: the step of a fetched word is `exec` of its command. -/
theorem stepRunsDecodedCommand : Obligations.StepRunsDecodedCommand := by
  unfold Obligations.StepRunsDecodedCommand
  exact fun _ _ _ => step_of_decode_ok

/-- Settles O9: an illegal word, a decoded one, a false guard, the two ends of a command, and the
turn of a halted block. -/
theorem mainStepFetchesDecodesAndGuards : Obligations.MainStepFetchesDecodesAndGuards := by
  unfold Obligations.MainStepFetchesDecodesAndGuards
  refine ⟨fun _ _ _ => step_of_decode_error, fun _ _ _ => step_of_decode_ok,
    fun _ _ => exec_of_guard_false, fun i s t _ running h => ?ends,
    fun _ => step_main_of_halted⟩
  case ends =>
    obtain ⟨hhalted, -, hpc⟩ | ⟨c, env, -, rfl⟩ := exec_ends h
    · exact .inl ⟨hhalted.trans running, hpc⟩
    · exact .inr ⟨rfl, rfl⟩

/-- Settles O47: the step asks for a well-formed configuration first. -/
theorem illFormedConfigurationIsRefused : Obligations.IllFormedConfigurationIsRefused := by
  unfold Obligations.IllFormedConfigurationIsRefused
  exact fun _ illFormed => if_neg illFormed

end Sys2Proof.Machine

namespace Sys2Proof.Machine

/-! ### The tick agent and the tick line (R35, R110, R115) -/

theorem tickRequest_of_halted {s : State} (hhalt : s.halted = true) : tickRequest s = s :=
  if_pos hhalt

theorem tickRequest_free {s : State} (running : s.halted = false) (free : s.tickPend = false) :
    tickRequest s = { s with tickPend := true } := by
  simp [tickRequest, running, free]

theorem tickRequest_held_below {s : State} (running : s.halted = false)
    (held : s.tickPend = true) (hlow : s.millis.toNat < 2 ^ 32 - 1) :
    tickRequest s = { s with millis := BitVec.ofNat 32 (s.millis.toNat + 1) } := by
  simp [tickRequest, running, held, tickRunning_below hlow]

theorem tickRequest_held_top {s : State} (running : s.halted = false)
    (held : s.tickPend = true) (htop : s.millis.toNat = 2 ^ 32 - 1) :
    tickRequest s = s.raise .timeOverflow := by
  simp [tickRequest, running, held, tickRunning_top htop]

/-- On its turn the tick line makes one request in the state with the turn used up (R35, R70). -/
theorem step_of_tickLine {s : State} (hwf : s.cfg.WF) (hturn : s.turn = .tickLine) :
    step s = .next (tickRequest s.turnTaken) := by
  rw [step_of_wf hwf, hturn, agentStep]

/-- What a step of the tick agent or of the tick line can do: it writes five fields at most, it
keeps the halt or raises `TimeOverflow`, and it counts one tick or none. -/
structure TickStep (s t : State) : Prop where
  frame : t = { s with
    env := t.env, millis := t.millis, tickPend := t.tickPend, halted := t.halted, cause := t.cause }
  halt : (t.halted = s.halted ∧ t.cause = s.cause) ∨
    (s.halted = false ∧ t.halted = true ∧ t.cause = .timeOverflow)
  count : t.millis = s.millis ∨ t.millis.toNat = s.millis.toNat + 1

theorem toNat_ofNat_succ {m : Time} (hlow : m.toNat < 2 ^ 32 - 1) :
    (BitVec.ofNat 32 (m.toNat + 1)).toNat = m.toNat + 1 := by
  rw [BitVec.toNat_ofNat, Nat.mod_eq_of_lt (by omega)]

theorem millis_below_or_top (s : State) :
    s.millis.toNat < 2 ^ 32 - 1 ∨ s.millis.toNat = 2 ^ 32 - 1 := by
  have := s.millis.isLt
  omega

theorem TickStep.raise {s : State} (running : s.halted = false) :
    TickStep s (s.raise .timeOverflow) where
  frame := rfl
  halt := .inr ⟨running, rfl, by rw [raise_cause, running]; rfl⟩
  count := .inl rfl

theorem tickHalted_tickStep (s : State) : TickStep s (tickHalted s) := by
  obtain passed | ⟨-, counted⟩ := tickHalted_cases s
  · rw [passed]
    exact ⟨rfl, .inl ⟨rfl, rfl⟩, .inl rfl⟩
  · have count := tickHalted_millis s
    rw [counted] at count ⊢
    exact ⟨rfl, .inl ⟨rfl, rfl⟩, count⟩

theorem tickRunning_tickStep {s : State} (running : s.halted = false) :
    TickStep s (tickRunning s) := by
  obtain low | top := millis_below_or_top s
  · rw [tickRunning_below low]
    exact ⟨rfl, .inl ⟨rfl, rfl⟩, .inr (toNat_ofNat_succ low)⟩
  · rw [tickRunning_top top]
    exact .raise running

theorem tickEvent_tickStep (s : State) : TickStep s (tickEvent s) := by
  cases mode : s.halted with
  | true => exact tickEvent_of_halted mode ▸ tickHalted_tickStep s
  | false => exact tickEvent_of_running mode ▸ tickRunning_tickStep mode

theorem tickRequest_tickStep (s : State) : TickStep s (tickRequest s) := by
  cases mode : s.halted with
  | true =>
    rw [tickRequest_of_halted mode]
    exact ⟨rfl, .inl ⟨rfl, rfl⟩, .inl rfl⟩
  | false =>
    cases request : s.tickPend with
    | false =>
      rw [tickRequest_free mode request]
      exact ⟨rfl, .inl ⟨rfl, rfl⟩, .inl rfl⟩
    | true =>
      obtain low | top := millis_below_or_top s
      · rw [tickRequest_held_below mode request low]
        exact ⟨rfl, .inl ⟨rfl, rfl⟩, .inr (toNat_ofNat_succ low)⟩
      · rw [tickRequest_held_top mode request top]
        exact .raise mode

/-- Taking the turn writes `env` alone, which the frame leaves free. -/
theorem TickStep.of_turnTaken {s t : State} (h : TickStep s.turnTaken t) : TickStep s t :=
  ⟨h.frame, h.halt, h.count⟩

/-- A step is the main agent's, or a step of the tick agent or of the tick line (R70). -/
theorem step_main_or_tick {s t : State} (h : step s = .next t) :
    (s.turn = .main ∧ mainStep s.turnTaken = .next t) ∨ (s.turn ≠ .main ∧ TickStep s t) := by
  obtain ⟨-, main | ⟨turn, rfl⟩ | ⟨turn, rfl⟩⟩ := step_cases h
  · exact .inl main
  · exact .inr ⟨by simp [turn], (tickEvent_tickStep s.turnTaken).of_turnTaken⟩
  · exact .inr ⟨by simp [turn], (tickRequest_tickStep s.turnTaken).of_turnTaken⟩

/-- Settles O49: the frame of the tick agent and of the tick line. -/
theorem tickTouchesOnlyTheTimer : Obligations.TickTouchesOnlyTheTimer := by
  unfold Obligations.TickTouchesOnlyTheTimer
  intro s t turn h
  obtain ⟨main, -⟩ | ⟨-, tick⟩ := step_main_or_tick h
  · exact absurd main turn
  · exact tick.frame

/-- The tick after a request that is held serves it (R35). -/
theorem held_then_served {s t u : State} {rest : List Turn} (hwf : s.cfg.WF)
    (running : s.halted = false) (turns : s.env.turns = .tickLine :: .tick :: rest)
    (free : s.tickPend = false) (hlow : s.millis.toNat < 2 ^ 32 - 1) (hst : step s = .next t)
    (htu : step t = .next u) :
    t.tickPend = true ∧ t.millis = s.millis ∧
      u.tickPend = false ∧ u.millis.toNat = s.millis.toNat + 1 := by
  have requested := step_of_tickLine hwf (turn_of_cons turns)
  rw [tickRequest_free (s := s.turnTaken) running free, hst] at requested
  cases requested
  refine ⟨rfl, rfl, ?_⟩
  have left : s.env.afterTurn.turns = .tick :: rest := by rw [Env.afterTurn, turns]
  have served := step_of_tick (s := { s.turnTaken with tickPend := true }) hwf
    (turn_of_cons left)
  rw [tickEvent_of_running (by exact running), tickRunning_below (by exact hlow), htu] at served
  cases served
  exact ⟨rfl, toNat_ofNat_succ hlow⟩

/-- Settles O14: the three cases of a request, and the two steps of a held one. -/
theorem heldTickIsServedOnce : Obligations.HeldTickIsServedOnce := by
  unfold Obligations.HeldTickIsServedOnce
  refine ⟨fun s hwf running turn free => ?free, fun s hwf running turn held hlow => ?below,
    fun s hwf running turn held htop => ?top,
    fun s t u rest hwf running turns free hlow hst htu =>
      held_then_served hwf running turns free hlow hst htu⟩
  case free =>
    rw [step_of_tickLine hwf turn, tickRequest_free (s := s.turnTaken) running free]
    rfl
  case below =>
    rw [step_of_tickLine hwf turn, tickRequest_held_below (s := s.turnTaken) running held hlow]
    rfl
  case top =>
    rw [step_of_tickLine hwf turn, tickRequest_held_top (s := s.turnTaken) running held htop,
      raise_of_running (s := s.turnTaken) _ running]
    rfl

/-! ### Runs (R49) -/

theorem run_succ {s u : State} (n : Nat) (h : step s = .next u) :
    Sys2Proof.core.run (n + 1) s = Sys2Proof.core.run n u := by
  have started : Sys2Proof.core.step s = .next u := h
  simp only [Host.Core.run, started]

theorem run_succ_cases {n : Nat} {s t : State} (h : Sys2Proof.core.run (n + 1) s = .next t) :
    ∃ u, step s = .next u ∧ Sys2Proof.core.run n u = .next t := by
  simp only [Host.Core.run] at h
  split at h
  · next u started => exact ⟨u, started, h⟩
  · cases h
  · cases h

/-! ### The counter over runs (R113) -/

theorem step_millis {s t : State} (h : step s = .next t) :
    (t.millis = s.millis ∨ t.millis.toNat = s.millis.toNat + 1) ∧
      (s.turn = .main → t.millis = s.millis) := by
  obtain ⟨-, main⟩ | ⟨turn, tick⟩ := step_main_or_tick h
  · obtain ⟨millis, -, -⟩ := mainStep_sameTimerAndConfig main
    exact ⟨.inl millis, fun _ => millis⟩
  · exact ⟨tick.count, fun main => absurd main turn⟩

theorem run_millis {n : Nat} {s t : State} (h : Sys2Proof.core.run n s = .next t) :
    s.millis.toNat ≤ t.millis.toNat ∧ t.millis.toNat ≤ s.millis.toNat + n := by
  induction n generalizing s with
  | zero =>
    cases h
    exact ⟨le_rfl, le_rfl⟩
  | succ n ih =>
    obtain ⟨u, first, rest⟩ := run_succ_cases h
    obtain ⟨lower, upper⟩ := ih rest
    obtain ⟨kept | counted, -⟩ := step_millis first
    · rw [kept] at lower upper
      exact ⟨lower, by omega⟩
    · exact ⟨by omega, by omega⟩

/-- Settles O15: one step counts one tick or none, and a run is its steps. -/
theorem millisNeverDecreases : Obligations.MillisNeverDecreases := by
  unfold Obligations.MillisNeverDecreases
  exact ⟨fun _ _ => step_millis, fun _ _ _ => run_millis⟩

/-! ### The halted block (R115, R231) -/

/-- Whichever agent moves, a step of a halted block ends, and writes `MILLIS` at most. -/
theorem step_of_halted {s : State} (hwf : s.cfg.WF) (hhalt : s.halted = true) :
    ∃ t, step s = .next t ∧ t = { s with env := t.env, millis := t.millis } := by
  cases turn : s.turn with
  | main => exact ⟨_, step_main_of_halted hwf hhalt turn, rfl⟩
  | tick =>
    rw [step_of_tick hwf turn, tickEvent_of_halted (s := s.turnTaken) hhalt]
    exact ⟨_, rfl, tickHalted_frame s.turnTaken⟩
  | tickLine =>
    rw [step_of_tickLine hwf turn, tickRequest_of_halted (s := s.turnTaken) hhalt]
    exact ⟨_, rfl, rfl⟩

theorem run_of_halted (n : Nat) {s : State} (hwf : s.cfg.WF) (hhalt : s.halted = true) :
    ∃ t, Sys2Proof.core.run n s = .next t ∧ t = { s with env := t.env, millis := t.millis } := by
  induction n generalizing s with
  | zero => exact ⟨s, rfl, rfl⟩
  | succ n ih =>
    obtain ⟨u, first, frozen⟩ := step_of_halted hwf hhalt
    have wf : u.cfg.WF := by rw [frozen]; exact hwf
    have halted : u.halted = true := by rw [frozen]; exact hhalt
    obtain ⟨t, rest, kept⟩ := ih wf halted
    refine ⟨t, (run_succ n first).trans rest, ?_⟩
    rw [frozen] at kept
    exact kept

theorem tickHalted_counts {s : State} (counts : s.haltTickCounts = true)
    (hlow : s.millis.toNat < 2 ^ 32 - 1) :
    tickHalted s = { s.haltTickUsed with millis := s.millis + 1 } :=
  if_pos ⟨counts, by rw [timeLimit]; omega⟩

theorem tickHalted_passes {s : State} (passes : s.haltTickCounts = false) :
    tickHalted s = s.haltTickUsed :=
  if_neg fun both => Bool.false_ne_true (passes.symm.trans both.1)

/-- The choice about a halted block's TICK is not used up by the turn. -/
theorem turnTaken_haltTick (s : State) : s.turnTaken.env.haltTick = s.env.haltTick := by
  rw [turnTaken_eq, withEnv_env, Env.afterTurn]
  split <;> rfl

theorem haltTickCounts_of_cons {s : State} {b : Bool} {bs : List Bool}
    (h : s.env.haltTick = b :: bs) : s.turnTaken.haltTickCounts = b := by
  rw [State.haltTickCounts, turnTaken_haltTick, h]
  rfl

/-- Settles O44: every step of a halted block writes `MILLIS` at most, and the choice of a TICK
decides whether it counts. -/
theorem haltedBlockIsFrozen : Obligations.HaltedBlockIsFrozen := by
  unfold Obligations.HaltedBlockIsFrozen
  refine ⟨fun n _ => run_of_halted n, fun s rest hwf hhalt turn hlow => ?_⟩
  rw [step_of_tick hwf turn, tickEvent_of_halted (s := s.turnTaken) hhalt]
  refine ⟨fun counts => ⟨_, rfl, ?counts⟩, fun passes => ⟨_, rfl, ?passes⟩⟩
  case counts =>
    rw [tickHalted_counts (haltTickCounts_of_cons counts) hlow, millis_add_one]
    exact toNat_ofNat_succ hlow
  case passes =>
    rw [tickHalted_passes (haltTickCounts_of_cons passes)]
    rfl

end Sys2Proof.Machine

namespace Sys2Proof.Machine

/-! ### The main agent's step by the table of writers (R229) -/

/-- A step of the main agent passes, or makes the writes of one command and ends it. -/
theorem mainStep_writes {s t : State} (h : mainStep s = .next t) :
    t = s ∨ ∃ o u, Writes s o u ∧ (t = u.nextPc ∨ ∃ c, c ≠ .none ∧ t = u.raise c) := by
  obtain ⟨-, rfl⟩ | ⟨-, w, -, ⟨e, -, rfl⟩ | ⟨i, -, ran⟩⟩ := mainStep_cases h
  · exact .inl rfl
  · exact .inr ⟨.halt, s, .nothing _, .inr ⟨.illegalCommand, by decide, rfl⟩⟩
  · exact .inr ⟨i.opcode, exec_writes ran⟩

/-! ### The history and the latch (R30, R131) -/

theorem Writes.tx {s u : State} {o : Opcode} (h : Writes s o u) :
    ∃ new, u.tx = s.tx ++ new ∧ new.length ≤ 1 := by
  cases h with
  | transmits => exact ⟨[serialize s.cfg s.fb], rfl, le_rfl⟩
  | _ => exact ⟨[], (List.append_nil _).symm, Nat.zero_le 1⟩

theorem Writes.extLatch {s u : State} {o : Opcode} (h : Writes s o u)
    (latched : s.extLatch ≠ .unchanged) : u.extLatch ≠ .unchanged := by
  cases h with
  | clkchk _ _ _ _ _ _ kept => exact kept latched
  | _ => exact latched

/-- Settles O52: a command adds one entry or none, and a tick leaves the history. -/
theorem historyIsAppendOnly : Obligations.HistoryIsAppendOnly := by
  unfold Obligations.HistoryIsAppendOnly
  intro s t h
  obtain ⟨-, main⟩ | ⟨-, tick⟩ := step_main_or_tick h
  · obtain rfl | ⟨o, u, writes, rfl | ⟨c, -, rfl⟩⟩ := mainStep_writes main
    · exact ⟨[], (List.append_nil _).symm, Nat.zero_le 1⟩
    · exact writes.tx
    · exact writes.tx
  · rw [tick.frame]
    exact ⟨[], (List.append_nil _).symm, Nat.zero_le 1⟩

/-- Settles O53: a command keeps the latch or stores an edge in it, and a tick leaves it. -/
theorem latchNeverForgets : Obligations.LatchNeverForgets := by
  unfold Obligations.LatchNeverForgets
  intro s t h latched
  obtain ⟨-, main⟩ | ⟨-, tick⟩ := step_main_or_tick h
  · obtain rfl | ⟨o, u, writes, rfl | ⟨c, -, rfl⟩⟩ := mainStep_writes main
    · exact latched
    · exact writes.extLatch latched
    · exact writes.extLatch latched
  · rw [tick.frame]
    exact latched

/-! ### `LedTransmitFailure` (R197, R253) -/

theorem RaisedBy.opcode_eq_write {o : Opcode} (h : RaisedBy .ledTransmitFailure o) :
    o = .write := by
  simpa [RaisedBy] using h

theorem eq_write_of_opcode {i : Instr} (h : i.opcode = .write) : ∃ g, i = .write g := by
  cases i with
  | write g => exact ⟨g, rfl⟩
  | _ => cases h

/-- Only a WRITE that transmits, and whose transmission fails, records `LedTransmitFailure`. -/
theorem exec_ledTransmitFailure {i : Instr} {s t : State} (h : exec i s = .next t)
    (before : s.cause ≠ .ledTransmitFailure) (after : t.cause = .ledTransmitFailure) :
    ∃ g, i = .write g ∧ guardHolds g s = true ∧ ¬s.frameSent ∧ s.busOutcome = .fail := by
  obtain ⟨-, rfl⟩ | ⟨hg, e, rule, rfl⟩ := exec_cases h
  · exact absurd after before
  · obtain ⟨-, -, cause, -⟩ := (ruleOf_writes rule).control
    obtain ⟨-, moved⟩ | ⟨c, raises, raised⟩ := finish_cases e
    · rw [moved, nextPc_cause, cause] at after
      exact absurd after before
    · obtain ⟨byCommand, -⟩ := ruleOf_faultsOnly rule c raises
      rw [raised, raise_cause, cause] at after
      obtain rfl : c = .ledTransmitFailure := by
        split at after
        · exact absurd after before
        · exact after
      obtain ⟨g, rfl⟩ := eq_write_of_opcode byCommand.opcode_eq_write
      cases rule
      obtain ⟨-, kept⟩ | ⟨-, -, sent⟩ | ⟨changed, fail, -⟩ := writeRule_cases s
      · rw [kept] at raises
        cases raises
      · rw [sent] at raises
        cases raises
      · exact ⟨g, rfl, hg, changed, fail⟩

/-- Taking the turn writes nothing a guard tests (R86). -/
theorem guardHolds_turnTaken (g : Guard) (s : State) :
    guardHolds g s.turnTaken = guardHolds g s := by
  cases g <;> rfl

/-- While a `Transmit` of the step returns `ok`, the step does not record `LedTransmitFailure`. -/
theorem step_cause_ne_ledTransmitFailure {s t : State}
    (infallible : s.transmits = true → s.transmitOutcome = .ok)
    (before : s.cause ≠ .ledTransmitFailure) (h : step s = .next t) :
    t.cause ≠ .ledTransmitFailure := by
  intro after
  obtain ⟨turn, main⟩ | ⟨-, tick⟩ := step_main_or_tick h
  · obtain ⟨-, rfl⟩ | ⟨running, w, fetched, ⟨e, -, rfl⟩ | ⟨i, decoded, ran⟩⟩ :=
      mainStep_cases main
    · exact before after
    · rw [raise_cause, running] at after
      cases after
    · obtain ⟨g, rfl, hg, changed, fail⟩ := exec_ledTransmitFailure ran before after
      rw [guardHolds_turnTaken] at hg
      have transmits : s.transmits = true :=
        (transmits_iff s).2 ⟨turn, running, w, g, fetched, decoded, hg, changed⟩
      have ok := infallible transmits
      exact nomatch ok.symm.trans fail
  · obtain ⟨-, cause⟩ | ⟨-, -, cause⟩ := tick.halt
    · exact before (cause.symm.trans after)
    · cases cause.symm.trans after

theorem run_cause_ne_ledTransmitFailure {n : Nat} {s t : State} (infallible : s.BusInfallible n)
    (before : s.cause ≠ .ledTransmitFailure) (h : Sys2Proof.core.run n s = .next t) :
    t.cause ≠ .ledTransmitFailure := by
  induction n generalizing s with
  | zero =>
    cases h
    exact before
  | succ n ih =>
    obtain ⟨ok, later⟩ := infallible
    obtain ⟨u, first, rest⟩ := run_succ_cases h
    exact ih (later u first) (step_cause_ne_ledTransmitFailure ok before first) rest

/-- A transmitting WRITE whose `Transmit` fails halts the block, with no retry (R197). -/
theorem step_of_transmit_fails {s : State} (hwf : s.cfg.WF) (transmits : s.transmits = true)
    (fail : s.transmitOutcome = .fail) :
    step s = .next { s with
      env := s.env.afterTurn.afterBus, halted := true, cause := .ledTransmitFailure } := by
  obtain ⟨turn, running, w, g, fetched, decoded, hg, changed⟩ := (transmits_iff s).1 transmits
  have guard : guardHolds g s.turnTaken = true := (guardHolds_turnTaken g s).trans hg
  rw [step_of_decode_ok ⟨hwf, running, turn, fetched⟩ decoded, exec_write_of_guard guard,
    writeRule_fails (s := s.turnTaken) changed fail, finish_faults,
    raise_of_running (s := s.turnTaken.busUsed) _ running]
  rfl

/-- The fault that a command's halt records is one of its own (R250). -/
theorem exec_raisedBy {i : Instr} {s t : State} (running : s.halted = false)
    (h : exec i s = .next t) (halted : t.halted = true) : RaisedBy t.cause i.opcode := by
  obtain ⟨kept, -, -⟩ | ⟨c, env, byCommand, rfl⟩ := exec_ends h
  · exact nomatch (kept.trans running).symm.trans halted
  · rw [raise_of_running (s := s.withEnv env) c running]
    exact byCommand

/-- Settles O12: the codes, the table of the faults, the run under the premise step by step, and the
failing WRITE. -/
theorem causesBelongToTheirCommands : Obligations.CausesBelongToTheirCommands := by
  unfold Obligations.CausesBelongToTheirCommands
  exact ⟨⟨rfl, rfl, rfl, rfl, rfl, rfl⟩, fun _ _ _ => exec_raisedBy,
    fun _ _ _ => run_cause_ne_ledTransmitFailure, fun _ => step_of_transmit_fails⟩

/-! ### The invariant after reset (R50, R280) -/

theorem oneGate_replicate (n : Nat) :
    ((List.replicate n Level.low).filter (· = .high)).length ≤ 1 := by
  simp

theorem resetWith_inv {c : Config} (hc : c.WF) : (State.resetWith c).Inv := by
  have wf := hc
  obtain ⟨table, -, -, -, -, -, -, prog⟩ := hc
  refine ⟨wf, ⟨List.length_pos_iff.2 prog, List.length_pos_iff.2 table⟩,
    ⟨List.length_replicate, List.length_replicate, List.length_replicate, ?_⟩, rfl, ?_,
    oneGate_replicate _⟩
  · exact fun b hb => absurd hb List.not_mem_nil
  · exact iff_of_true rfl rfl

/-- Settles O60: each clause of the invariant at the values of reset. -/
theorem resetMeetsTheInvariant : Obligations.ResetMeetsTheInvariant := by
  unfold Obligations.ResetMeetsTheInvariant
  exact fun _ => resetWith_inv

/-- Settles O45: reset is the reset state of the configuration, and the invariant reads nothing of
the environment's choices that it keeps. -/
theorem resetLeavesTheHalt : Obligations.ResetLeavesTheHalt := by
  unfold Obligations.ResetLeavesTheHalt
  exact fun s hwf => ⟨resetWith_inv hwf, rfl, rfl, rfl⟩

/-! ### The invariant over a step -/

theorem pointerAfter_lt {c : Config} {ptr : Nat} (h : ptr < c.table.length) (chg : Bool) :
    pointerAfter c ptr chg < c.table.length := by
  cases chg with
  | false => exact h
  | true => exact Nat.mod_lt _ (Nat.zero_lt_of_lt h)

theorem oneGate_gatesAfter (count step value : Nat) :
    ((gatesAfter count step value).filter (· = .high)).length ≤ 1 := by
  unfold gatesAfter
  split
  · obtain inside | outside := Nat.lt_or_ge step count
    · rw [← List.countP_eq_length_filter, List.countP_set (by simpa using inside)]
      simp [List.countP_replicate]
    · rw [List.set_eq_of_length_le (by simpa using outside)]
      exact oneGate_replicate count
  · exact oneGate_replicate count

theorem transmitted_inv {s : State} (inv : s.Inv) : (transmitted s).Inv := by
  obtain ⟨hwf, indexed, ⟨hfb, -, hgates, htx⟩, -, rest⟩ := inv
  refine ⟨hwf, indexed, ⟨hfb, hfb, hgates, fun b hb => ?_⟩, List.getLast?_concat, rest⟩
  obtain old | new := List.mem_append.1 hb
  · exact htx b old
  · obtain rfl := List.mem_singleton.1 new
    rw [serialize_length, hfb, Nat.add_comm]
    rfl

/-- The writes of every command keep the invariant: those left to the last case write no field that
it speaks of. -/
theorem Writes.inv {s u : State} {o : Opcode} (h : Writes s o u) (inv : s.Inv) : u.Inv := by
  cases h with
  | transmits => exact transmitted_inv inv
  | seqchk _ _ chg =>
    obtain ⟨hwf, ⟨hpc, hseq⟩, rest⟩ := inv
    exact ⟨hwf, ⟨hpc, pointerAfter_lt hseq chg⟩, rest⟩
  | render | renderx =>
    obtain ⟨hwf, indexed, ⟨-, sized⟩, rest⟩ := inv
    exact ⟨hwf, indexed, ⟨buildFrame_length .., sized⟩, rest⟩
  | stepout _ step value =>
    obtain ⟨hwf, indexed, ⟨hfb, hlast, -, htx⟩, history, cause, -⟩ := inv
    exact ⟨hwf, indexed, ⟨hfb, hlast, gatesAfter_length .., htx⟩, history, cause,
      oneGate_gatesAfter _ step value⟩
  | _ => exact inv

theorem nextPc_inv {s : State} (inv : s.Inv) : s.nextPc.Inv := by
  obtain ⟨hwf, ⟨hpc, hseq⟩, rest⟩ := inv
  exact ⟨hwf, ⟨Nat.mod_lt _ (Nat.zero_lt_of_lt hpc), hseq⟩, rest⟩

theorem raise_inv {s : State} {c : Cause} (hc : c ≠ .none) (inv : s.Inv) : (s.raise c).Inv := by
  obtain ⟨hwf, indexed, sized, history, recorded, gates⟩ := inv
  refine ⟨hwf, indexed, sized, history, iff_of_false ?_ Bool.true_eq_false.mp, gates⟩
  rw [raise_cause]
  split
  · next halted => exact fun none => Bool.false_ne_true ((recorded.1 none).symm.trans halted)
  · exact hc

theorem mainStep_inv {s t : State} (inv : s.Inv) (h : mainStep s = .next t) : t.Inv := by
  obtain rfl | ⟨o, u, writes, rfl | ⟨c, hc, rfl⟩⟩ := mainStep_writes h
  · exact inv
  · exact nextPc_inv (writes.inv inv)
  · exact raise_inv hc (writes.inv inv)

theorem TickStep.inv {s t : State} (h : TickStep s t) (inv : s.Inv) : t.Inv := by
  obtain ⟨hwf, indexed, sized, history, recorded, gates⟩ := inv
  have recorded' : t.CauseRecorded := by
    obtain ⟨halted, cause⟩ | ⟨-, halted, cause⟩ := h.halt
    · rw [State.CauseRecorded, halted, cause]
      exact recorded
    · simp [State.CauseRecorded, halted, cause]
  rw [h.frame]
  exact ⟨hwf, indexed, sized, history, recorded', gates⟩

/-- Settles O59: the writes of every command keep the invariant, so do the two ends of a command,
and a tick keeps its fields but the recorded cause. -/
theorem stepKeepsTheInvariant : Obligations.StepKeepsTheInvariant := by
  unfold Obligations.StepKeepsTheInvariant
  intro s t inv h
  obtain ⟨-, main⟩ | ⟨-, tick⟩ := step_main_or_tick h
  · exact mainStep_inv (s := s.turnTaken) inv main
  · exact tick.inv inv

/-! ### Nothing is stuck (R259) -/

theorem trigRule_total {s : State} (hseq : s.seqPtr < s.cfg.table.length) :
    ∃ e, trigRule s = .ok e := by
  obtain ⟨q, active⟩ := seq?_of_lt hseq
  cases edge : s.edge with
  | rise => exact ⟨trigRise q s, by rw [trigRule, edge]; exact withSeq_some active _⟩
  | fall => exact ⟨.writes (trigFall s), by rw [trigRule, edge]⟩
  | unchanged => exact ⟨.writes s, by rw [trigRule, edge]⟩

/-- With `SEQ_PTR` in range every rule answers: only a read of `SEQ` could stop it. -/
theorem ruleOf_total (i : Instr) {s : State} (hseq : s.seqPtr < s.cfg.table.length) :
    ∃ e, ruleOf i s = .ok e := by
  obtain ⟨q, active⟩ := seq?_of_lt hseq
  cases i with
  | trig g => exact trigRule_total hseq
  | clkchk | render | renderx | stepout => exact ⟨_, withSeq_some active _⟩
  | _ => exact ⟨_, rfl⟩

theorem exec_total (i : Instr) {s : State} (hseq : s.seqPtr < s.cfg.table.length) :
    ∃ t, exec i s = .next t := by
  cases guard : guardHolds i.guard s with
  | false => exact ⟨_, exec_of_guard_false guard⟩
  | true =>
    obtain ⟨e, rule⟩ := ruleOf_total i hseq
    exact ⟨_, exec_of_rule guard rule⟩

theorem runWord_total (w : Word) {s : State} (hseq : s.seqPtr < s.cfg.table.length) :
    ∃ t, runWord w s = .next t := by
  cases decoded : decode w with
  | error e => exact ⟨_, by rw [runWord, decoded]⟩
  | ok i =>
    obtain ⟨t, ran⟩ := exec_total i hseq
    exact ⟨t, by rw [runWord, decoded]; exact ran⟩

theorem mainStep_total {s : State} (indexed : s.Indexed) : ∃ t, mainStep s = .next t := by
  obtain ⟨hpc, hseq⟩ := indexed
  cases mode : s.halted with
  | true => exact ⟨s, mainStep_of_halted mode⟩
  | false =>
    have fetched : s.fetchWord = some s.cfg.prog[s.pc] := List.getElem?_eq_getElem hpc
    rw [mainStep_of_fetchWord mode fetched]
    exact runWord_total _ hseq

theorem step_total {s : State} (hwf : s.cfg.WF) (indexed : s.Indexed) :
    ∃ t, step s = .next t := by
  rw [step_of_wf hwf]
  cases s.turn with
  | main => exact mainStep_total (s := s.turnTaken) indexed
  | tick => exact ⟨_, rfl⟩
  | tickLine => exact ⟨_, rfl⟩

/-- Settles O58: the clauses of the invariant that put the indices in range are all a step needs. -/
theorem nothingIsStuck : Obligations.NothingIsStuck := by
  unfold Obligations.NothingIsStuck
  refine ⟨fun i s inv => ?command, fun s inv => ?agent⟩
  case command =>
    obtain ⟨-, ⟨-, hseq⟩, -⟩ := inv
    exact exec_total i hseq
  case agent =>
    obtain ⟨hwf, indexed, -⟩ := inv
    exact step_total hwf indexed

end Sys2Proof.Machine

namespace Sys2Proof.Machine

/-! ### The task over two commands (R121, R123) -/

/-- What POLL does to the slot and the output when it answers (R121). -/
theorem exec_poll_due {g : Guard} {s t : State} {kind : TaskKind} {fireAt : Time}
    (hg : guardHolds g s = true) (h : exec (.poll g) s = .next t)
    (pending : s.task = .pending kind fireAt) (due : fireAt.toNat ≤ s.millis.toNat) :
    t.trigOut = .low ∧ t.task = .empty := by
  rw [exec_poll_of_guard hg, pollRule_due pending due] at h
  cases h
  exact ⟨rfl, rfl⟩

theorem exec_poll_early {g : Guard} {s t : State} {kind : TaskKind} {fireAt : Time}
    (hg : guardHolds g s = true) (h : exec (.poll g) s = .next t)
    (pending : s.task = .pending kind fireAt) (early : s.millis.toNat < fireAt.toNat) :
    t.trigOut = s.trigOut ∧ t.task = s.task := by
  rw [exec_poll_of_guard hg, pollRule_early pending early] at h
  cases h
  exact ⟨rfl, rfl⟩

theorem exec_poll_empty {g : Guard} {s t : State} (hg : guardHolds g s = true)
    (h : exec (.poll g) s = .next t) (empty : s.task = .empty) :
    t.trigOut = s.trigOut ∧ t.task = .empty := by
  rw [exec_poll_of_guard hg, pollRule_empty empty] at h
  cases h
  exact ⟨rfl, empty⟩

theorem exec_sched_task {g : Guard} {kind : TaskKind} {fireAt : Time} {s t : State}
    (hg : guardHolds g s = true) (h : exec (.sched g kind fireAt) s = .next t) :
    t.task = .pending kind fireAt := by
  rw [exec_of_rule (i := .sched g kind fireAt) hg rfl] at h
  cases h
  rfl

/-- Settles O19: the slot holds the second task, which the first POLL fires if it is due and then
finds empty for the second. -/
theorem scheduledTaskFiresOnce : Obligations.ScheduledTaskFiresOnce := by
  unfold Obligations.ScheduledTaskFiresOnce
  intro kind kind' a b m m' s t u v w _ second poll poll'
  have pending := exec_sched_task rfl second
  obtain early | due := Nat.lt_or_ge m.toNat b.toNat
  · obtain ⟨high, -⟩ := exec_poll_early rfl poll pending early
    refine ⟨iff_of_false (fun low => ?_) (Nat.not_le.2 early),
      fun due => absurd due (Nat.not_le.2 early)⟩
    cases high.symm.trans low
  · obtain ⟨low, empty⟩ := exec_poll_due rfl poll pending due
    obtain ⟨high, empty'⟩ := exec_poll_empty rfl poll' empty
    exact ⟨iff_of_true low due, fun _ => ⟨empty, high, empty'⟩⟩

/-- A TRIG on a Rise of an active step under Pulse drives the output and books its fall (R150,
R153). -/
theorem exec_trig_pulse {g : Guard} {s t : State} {q : Sequence} (hg : guardHolds g s = true)
    (rise : s.edge = .rise) (hseq : s.seq? = some q) (inside : s.stepReg.toNat < q.length)
    (active : 0 < intensityOrZero q s.stepReg.toNat) (pulse : s.cfg.policy = .pulse)
    (fits : s.millis.toNat + s.cfg.delayTime < 2 ^ 32) (h : exec (.trig g) s = .next t) :
    t.trigOut = .high ∧
      t.task = .pending .trigLow (BitVec.ofNat 32 (s.millis.toNat + s.cfg.delayTime)) := by
  rw [exec_trig_rise hg rise hseq, trigRise_pulse inside pulse fits] at h
  cases h
  exact ⟨if_pos active, rfl⟩

/-- Settles O26: the deadline fits the register, and a POLL before it is early, one at or after it
due. -/
theorem pulseEndsAtItsDeadline : Obligations.PulseEndsAtItsDeadline := by
  unfold Obligations.PulseEndsAtItsDeadline
  intro s t u q m rise hseq inside active pulse fits trig poll
  obtain ⟨high, booked⟩ := exec_trig_pulse rfl rise hseq inside active pulse fits trig
  have deadline : (BitVec.ofNat 32 (s.millis.toNat + s.cfg.delayTime)).toNat =
      s.millis.toNat + s.cfg.delayTime := by
    rw [BitVec.toNat_ofNat, Nat.mod_eq_of_lt fits]
  refine ⟨fun early => ?early, fun due => ?due⟩
  case early =>
    obtain ⟨kept, slot⟩ := exec_poll_early rfl poll booked (by rwa [deadline])
    exact ⟨kept.trans high, slot⟩
  case due => exact exec_poll_due rfl poll booked (by rwa [deadline])

/-! ### TRIG twice on a Fall, and on a Rise with another output (R151, R152) -/

/-- A Fall drops the output once: the rule is idempotent (R152). -/
theorem trigFall_trigFall (s : State) : trigFall (trigFall s).nextPc = (trigFall s).nextPc := by
  by_cases follow : s.cfg.policy = .follow
  · rw [trigFall_follow follow]
    exact trigFall_follow (s := State.nextPc { s with trigOut := .low }) follow
  · rw [trigFall_of_not_follow follow]
    exact trigFall_of_not_follow (s := s.nextPc) follow

theorem trigFall_edge (s : State) : (trigFall s).edge = s.edge := by
  unfold trigFall
  split <;> rfl

/-- Settles O27: the first Fall has left what a second one writes. -/
theorem repeatedFallChangesNothing : Obligations.RepeatedFallChangesNothing := by
  unfold Obligations.RepeatedFallChangesNothing
  intro s t u fall first second
  rw [exec_trig_fall rfl fall] at first
  cases first
  have again : (trigFall s).nextPc.edge = .fall := (trigFall_edge s).trans fall
  rw [exec_trig_fall rfl again, trigFall_trigFall] at second
  cases second
  refine ⟨rfl, fun follow => ?follow, fun other => ?other⟩
  case follow => rw [trigFall_follow follow]; rfl
  case other => rw [trigFall_of_not_follow other]; rfl

/-- Settles O28: a Rise that does not fault writes the output, and reads other fields only. -/
theorem trigNeverReadsItsOutput : Obligations.TrigNeverReadsItsOutput := by
  unfold Obligations.TrigNeverReadsItsOutput
  intro g s t l hg rise running h notHalted
  obtain ⟨skipped, -⟩ | ⟨-, e, rule, rfl⟩ := exec_cases h
  · exact nomatch hg.symm.trans skipped
  obtain ⟨-, q, hseq, rfl⟩ | ⟨fall, -⟩ | ⟨unchanged, -⟩ := trigRule_cases rule
  · have hg' : guardHolds g { s with trigOut := l } = true := hg
    rw [exec_trig_rise (s := { s with trigOut := l }) hg' rise hseq]
    obtain ⟨-, faults⟩ | ⟨-, -, -, faults⟩ | ⟨inside, pulse, fits, -⟩ | ⟨inside, other, -⟩ :=
      trigRise_cases q s
    · rw [faults] at notHalted
      cases notHalted
    · rw [faults] at notHalted
      cases notHalted
    · rw [trigRise_pulse inside pulse fits,
        trigRise_pulse (s := { s with trigOut := l }) inside pulse fits]
    · rw [trigRise_of_not_pulse inside other,
        trigRise_of_not_pulse (s := { s with trigOut := l }) inside other]
  · cases rise.symm.trans fall
  · cases rise.symm.trans unchanged

/-! ### Two External polls at one level (R132) -/

/-- The latch holds what the level was classified to, or was that already: the same level is
Unchanged. -/
theorem extClassify_latched (level : Level) (latch : Edge) :
    extClassify level
      (if extClassify level latch = .unchanged then latch else extClassify level latch) =
        .unchanged := by
  cases level <;> cases latch <;> rfl

theorem clkchkRule_external {q : Sequence} {s : State} (hext : s.cfg.clkVariant = .external) :
    (clkchkRule q s).cfg = s.cfg ∧ (clkchkRule q s).env = s.env.afterClkIn ∧
      (clkchkRule q s).edge = extClassify s.clkInLevel s.extLatch ∧
      (clkchkRule q s).extLatch =
        if extClassify s.clkInLevel s.extLatch = .unchanged then s.extLatch
        else extClassify s.clkInLevel s.extLatch := by
  rw [clkchkRule, clkEdge_external hext]
  by_cases same : extClassify s.clkInLevel s.extLatch = .unchanged
  · rw [same, clkLatched_external_unchanged hext]
    exact ⟨rfl, rfl, rfl, rfl⟩
  · rw [clkLatched_external hext same, if_neg same]
    exact ⟨rfl, rfl, rfl, rfl⟩

/-- A CLKCHK under a guard that holds and that answers ran its rule on the active sequence. -/
theorem exec_clkchk_next {g : Guard} {s t : State} (hg : guardHolds g s = true)
    (h : exec (.clkchk g) s = .next t) : ∃ q, t = (clkchkRule q s).nextPc := by
  obtain ⟨skipped, -⟩ | ⟨-, e, rule, rfl⟩ := exec_cases h
  · exact nomatch hg.symm.trans skipped
  · obtain ⟨q, -, rfl⟩ := withSeq_ok rule
    exact ⟨q, rfl⟩

/-- Settles O23: the second poll classifies the level against the latch that the first one left. -/
theorem sameLevelNeverRisesTwice : Obligations.SameLevelNeverRisesTwice := by
  unfold Obligations.SameLevelNeverRisesTwice
  intro s t u l rest hext samples first second
  obtain ⟨q, rfl⟩ := exec_clkchk_next rfl first
  obtain ⟨q', rfl⟩ := exec_clkchk_next rfl second
  obtain ⟨cfg, env, -, latch⟩ := clkchkRule_external (q := q) hext
  have left : (clkchkRule q s).nextPc.env.clkIn = l :: rest := by
    rw [nextPc_env, env, Env.afterClkIn, samples]
  have hext' : (clkchkRule q s).nextPc.cfg.clkVariant = .external := by
    rw [nextPc_cfg, cfg, hext]
  obtain ⟨-, -, edge', -⟩ := clkchkRule_external (q := q') hext'
  rw [clkInLevel_of_cons left, nextPc_extLatch, latch, clkInLevel_of_cons samples,
    extClassify_latched] at edge'
  have unchanged : (clkchkRule q' (clkchkRule q s).nextPc).nextPc.edge = .unchanged := edge'
  refine ⟨fun ⟨_, rise⟩ => ?_, fun ⟨_, fall⟩ => ?_, unchanged⟩
  · cases unchanged.symm.trans rise
  · cases unchanged.symm.trans fall

/-- Settles O21: the table of the detector, row by row. -/
theorem edgeDetectorTable : Obligations.EdgeDetectorTable := by
  unfold Obligations.EdgeDetectorTable
  exact ⟨extClassify_high (by decide), extClassify_high (by decide), extClassify_same (by decide),
    extClassify_low (by decide), extClassify_low (by decide), extClassify_same (by decide)⟩

/-! ### WRITE twice (R196) -/

/-- After a WRITE that did not halt the block, the frame is the one transmitted last (R196 a). -/
theorem frameSent_of_write {g : Guard} {s t : State} (hg : guardHolds g s = true)
    (h : exec (.write g) s = .next t) (running : t.halted = false) : t.frameSent := by
  rw [exec_write_of_guard hg] at h
  cases h
  obtain ⟨sent, rule⟩ | ⟨-, -, rule⟩ | ⟨-, -, rule⟩ := writeRule_cases s
  · rw [rule]
    exact sent
  · rw [rule]
    exact ⟨rfl, rfl⟩
  · rw [rule] at running
    cases running

/-- Settles O39: the second WRITE finds the frame that was transmitted last. -/
theorem secondWriteTransmitsNothing : Obligations.SecondWriteTransmitsNothing := by
  unfold Obligations.SecondWriteTransmitsNothing
  intro s t u first running _ second
  rw [exec_write_of_guard rfl, writeRule_unchanged (frameSent_of_write rfl first running)] at second
  cases second
  rfl

/-! ### The HSV conversion (R173, R174, R177) -/

theorem hsvF_le (h : Nat) : hsvF h ≤ 252 := by
  unfold hsvF
  omega

/-- A channel of 0..255 scaled by a factor of 0..255 out of 255 is a channel again. -/
theorem scaled_le {v : Nat} (hv : v ≤ 255) (y : Nat) : v * (255 - y) / 255 ≤ 255 :=
  Nat.div_le_of_le_mul (Nat.mul_le_mul hv (Nat.sub_le 255 y))

/-- Settles O33: the formulas are the definitions, and each product is bounded by its factors. -/
theorem hsvValuesFit : Obligations.HsvValuesFit := by
  unfold Obligations.HsvValuesFit
  intro h s v hh hs hv
  exact ⟨rfl, rfl, rfl, rfl, by omega, hsvF_le h, Nat.mul_le_mul hs (hsvF_le h),
    Nat.mul_le_mul hs (Nat.sub_le 255 _), by omega, scaled_le hv _, scaled_le hv _, scaled_le hv _⟩

theorem hsv2rgb_sector0 {h : Nat} (s v : Nat) (hi : h ≤ 42) :
    hsv2rgb h s v = colorOf v (hsvT h s v) (hsvP s v) := by
  simp only [hsv2rgb, hi, if_true]

theorem hsv2rgb_sector1 {h : Nat} (s v : Nat) (lo : 43 ≤ h) (hi : h ≤ 84) :
    hsv2rgb h s v = colorOf (hsvQ h s v) v (hsvP s v) := by
  rw [hsv2rgb, if_neg (by omega), if_pos hi]

theorem hsv2rgb_sector2 {h : Nat} (s v : Nat) (lo : 85 ≤ h) (hi : h ≤ 127) :
    hsv2rgb h s v = colorOf (hsvP s v) v (hsvT h s v) := by
  rw [hsv2rgb, if_neg (by omega), if_neg (by omega), if_pos hi]

theorem hsv2rgb_sector3 {h : Nat} (s v : Nat) (lo : 128 ≤ h) (hi : h ≤ 169) :
    hsv2rgb h s v = colorOf (hsvP s v) (hsvQ h s v) v := by
  rw [hsv2rgb, if_neg (by omega), if_neg (by omega), if_neg (by omega), if_pos hi]

theorem hsv2rgb_sector4 {h : Nat} (s v : Nat) (lo : 170 ≤ h) (hi : h ≤ 212) :
    hsv2rgb h s v = colorOf (hsvT h s v) (hsvP s v) v := by
  rw [hsv2rgb, if_neg (by omega), if_neg (by omega), if_neg (by omega), if_neg (by omega),
    if_pos hi]

theorem hsv2rgb_sector5 {h : Nat} (s v : Nat) (lo : 213 ≤ h) (hi : h ≤ 254) :
    hsv2rgb h s v = colorOf v (hsvP s v) (hsvQ h s v) := by
  rw [hsv2rgb, if_neg (by omega), if_neg (by omega), if_neg (by omega), if_neg (by omega),
    if_neg (by omega), if_pos hi]

/-- The last hue folds to the first sector (R174). -/
theorem hsv2rgb_255 (s v : Nat) :
    hsv2rgb 255 s v = colorOf v (hsvT 255 s v) (hsvP s v) := rfl

/-- Settles O34: the formulas are those of `hsvF`, `hsvP`, `hsvQ` and `hsvT`, and each range of the
hue is a sector. -/
theorem hsvSectors : Obligations.HsvSectors := by
  unfold Obligations.HsvSectors
  rintro h s v f p q t - rfl rfl rfl rfl
  refine ⟨hsv2rgb_sector0 s v, fun ⟨lo, hi⟩ => hsv2rgb_sector1 s v lo hi,
    fun ⟨lo, hi⟩ => hsv2rgb_sector2 s v lo hi, fun ⟨lo, hi⟩ => hsv2rgb_sector3 s v lo hi,
    fun ⟨lo, hi⟩ => hsv2rgb_sector4 s v lo hi, fun ⟨lo, hi⟩ => hsv2rgb_sector5 s v lo hi, ?_⟩
  rintro rfl
  exact ⟨hsv2rgb_255 s v, rfl⟩

/-- Hue 255 is hue 0: the position inside the sector is 0 in both (R177 b). -/
theorem hsv2rgb_255_eq_0 (s v : Nat) : hsv2rgb 255 s v = hsv2rgb 0 s v := by
  have position : hsvF 255 = hsvF 0 := by decide
  rw [hsv2rgb_255, hsv2rgb_sector0 _ _ (Nat.zero_le 42), hsvT, hsvT, position]

theorem hsvP_unsaturated (v : Nat) : hsvP 0 v = v := by simp [hsvP]

theorem hsvQ_unsaturated (h v : Nat) : hsvQ h 0 v = v := by simp [hsvQ]

theorem hsvT_unsaturated (h v : Nat) : hsvT h 0 v = v := by simp [hsvT]

/-- No saturation is grey in every sector (R177 f). -/
theorem hsv2rgb_unsaturated (h v : Nat) : hsv2rgb h 0 v = colorOf v v v := by
  simp only [hsv2rgb, hsvP_unsaturated, hsvQ_unsaturated, hsvT_unsaturated, ite_self]

/-- No brightness is black in every sector (R177 e). -/
theorem hsv2rgb_dark (h s : Nat) : hsv2rgb h s 0 = colorOf 0 0 0 := by
  simp only [hsv2rgb, hsvP, hsvQ, hsvT, Nat.zero_mul, Nat.zero_div, ite_self]

theorem hsv2rgb_red (v : Nat) : hsv2rgb 0 255 v = colorOf v 0 0 := by
  have p : hsvP 255 v = 0 := by simp [hsvP]
  have t : hsvT 0 255 v = 0 := by simp [hsvT, hsvF]
  rw [hsv2rgb_sector0 _ _ (Nat.zero_le 42), p, t]

/-- The highest intensity has the colour of the lowest: their hues are 255 and 0 (R177 c). -/
theorem mapColor_15_eq_0 (c : Config) (role : Role) :
    mapColor c (some 15) role = mapColor c (some 0) role := by
  have top : 17 * (15 : Intensity).val = 255 := by decide
  have bottom : 17 * (0 : Intensity).val = 0 := by decide
  rw [mapColor_some, mapColor_some, top, bottom, hsv2rgb_255_eq_0]

/-- Settles O35: each fact of the conversion, and the hues 255 and 0 of the intensities 15 and 0. -/
theorem hsvFacts : Obligations.HsvFacts := by
  unfold Obligations.HsvFacts
  exact ⟨hsv2rgb_red, hsv2rgb_255_eq_0, mapColor_15_eq_0, hsv2rgb_dark,
    hsv2rgb_unsaturated⟩

/-! ### The serializer (R200 to R203) -/

/-- The bits that the bus sends of one byte, in their order (R67 c). -/
def busBits (o : BitOrder) (b : Byte) : List Bool := (bitPlaces o).map fun j => b.getLsbD j

/-- The bus sends packed bytes as the bits they were packed from (R201). -/
theorem busBits_packBytes (o : BitOrder) {n : Nat} {bits : List Bool}
    (h : bits.length = 8 * n) : (packBytes o n bits).flatMap (busBits o) = bits := by
  induction n generalizing bits with
  | zero => exact (List.length_eq_zero_iff.1 h).symm
  | succ n ih =>
    have first : (bits.take 8).length = 8 := by rw [List.length_take]; omega
    have others : (bits.drop 8).length = 8 * n := by rw [List.length_drop]; omega
    rw [packBytes, List.flatMap_cons, ih others, busBits, bitPlaces_byteOf o _ first,
      List.take_append_drop]

theorem busBits_zero (o : BitOrder) : busBits o 0 = List.replicate 8 false := by
  cases o <;> decide

theorem busBits_zeros (o : BitOrder) (n : Nat) :
    (List.replicate n (0 : Byte)).flatMap (busBits o) = List.replicate (8 * n) false := by
  rw [List.flatMap_replicate, busBits_zero, List.flatten_replicate_replicate, Nat.mul_comm]

theorem length_flatMap_of_length {α β : Type} {f : α → List β} {n : Nat}
    (h : ∀ a, (f a).length = n) (l : List α) : (l.flatMap f).length = l.length * n := by
  simp [List.length_flatMap, h]

section Bits

variable {c : Config} (hc : c.WF)

include hc

theorem expandBit_length (b : Bool) : (expandBit c b).length = c.expand := by
  obtain ⟨-, -, -, -, pat0, pat1, -, -⟩ := hc
  cases b with
  | false => exact pat0
  | true => exact pat1

theorem byteBits_length (byte : Byte) : (byteBits c byte).length = 8 * c.expand := by
  rw [byteBits, length_flatMap_of_length fun j => expandBit_length hc (byte.getLsbD j),
    bitPlaces_length]

theorem ledBits_length (col : Color) : (ledBits c col).length = 3 * (8 * c.expand) := by
  rw [ledBits, length_flatMap_of_length fun ch => byteBits_length hc (channelByte col ch)]
  cases c.colorOrder <;> rfl

/-- The LEDs' bits fill their bytes exactly, so the buffer's bits are theirs and the overhead's
zeros. -/
theorem busBits_serialize (f : Frame) :
    (serialize c f).flatMap (busBits c.busBitOrder) =
      f.flatMap (ledBits c) ++ List.replicate (8 * c.overhead) false := by
  have fills : (f.flatMap (ledBits c)).length = 8 * (bytesPerLed c * f.length) := by
    rw [length_flatMap_of_length (ledBits_length hc), bytesPerLed]
    ring
  rw [serialize, List.flatMap_append, busBits_packBytes _ fills, busBits_zeros]

end Bits

/-- The channels of an LED in wire order are those that `COLOR_ORDER` names (R201). -/
theorem ledBits_eq (c : Config) (col : Color) :
    ledBits c col =
      (match c.colorOrder with
        | .rgb => [col.r, col.g, col.b]
        | .rbg => [col.r, col.b, col.g]
        | .grb => [col.g, col.r, col.b]
        | .gbr => [col.g, col.b, col.r]
        | .brg => [col.b, col.r, col.g]
        | .bgr => [col.b, col.g, col.r]).flatMap (byteBits c) := by
  unfold ledBits
  cases c.colorOrder <;> rfl

/-- Settles O40: the buffer's size by its two parts, and its bits by the data bits and the zeros. -/
theorem serializerKeepsEveryBit : Obligations.SerializerKeepsEveryBit := by
  unfold Obligations.SerializerKeepsEveryBit
  intro c f hc size
  constructor
  · rw [serialize_length, size, bytesPerLed, Nat.add_comm]
  · refine (busBits_serialize hc f).trans ?_
    rw [funext (ledBits_eq c)]
    rfl

end Sys2Proof.Machine

namespace Sys2Proof.Machine

/-! ### What a command does not read

One state and the same with other values in the fields that a command may be blind to: `TABLE`
beyond the lengths of its sequences, `MILLIS`, `TICK_PEND`, `RES`, `TX` and `LAST`. Every command
makes the same step of both, so each claim of this kind is read off one lemma, `exec_on`. -/

/-- Values for the fields that a command may be blind to. -/
structure Overlay where
  table : List Sequence
  millis : Time
  tickPend : Bool
  res : BitVec 32
  tx : List (List Byte)
  last : Frame

/-- `s` with the values of the overlay. -/
def Overlay.on (o : Overlay) (s : State) : State :=
  { s with
    cfg := { s.cfg with table := o.table }, millis := o.millis, tickPend := o.tickPend
    res := o.res, tx := o.tx, last := o.last }

/-- The overlay that changes nothing of `s`. -/
def State.overlay (s : State) : Overlay := ⟨s.cfg.table, s.millis, s.tickPend, s.res, s.tx, s.last⟩

/-- The same writes and the same fault, over the values of the overlay. -/
def Overlay.onEffect (o : Overlay) (e : Effect) : Effect := ⟨o.on e.after, e.raises⟩

theorem finish_onEffect (o : Overlay) (e : Effect) : (o.onEffect e).finish = o.on e.finish := by
  obtain ⟨after, raises⟩ := e
  cases raises <;> rfl

/-- The overlay `o'` after a command that took `s` to `u`, where `o` was before it: each of `RES`,
`TX` and `LAST` got the same write in both states or none in either. -/
structure Overlay.Follows (o : Overlay) (s u : State) (o' : Overlay) : Prop where
  table : o'.table = o.table
  millis : o'.millis = o.millis
  tickPend : o'.tickPend = o.tickPend
  res : o'.res = u.res ∨ (o'.res = o.res ∧ u.res = s.res)
  tx : ∃ new, o'.tx = o.tx ++ new ∧ u.tx = s.tx ++ new
  last : o'.last = u.last ∨ (o'.last = o.last ∧ u.last = s.last ∧ u.lastV = s.lastV)

namespace Overlay.Follows

variable {o o' : Overlay} {s u : State}

/-- A command that writes none of the three fields keeps the overlay. -/
theorem kept (res : u.res = s.res) (tx : u.tx = s.tx) (last : u.last = s.last)
    (lastV : u.lastV = s.lastV) : o.Follows s u o :=
  ⟨rfl, rfl, rfl, .inr ⟨rfl, res⟩, ⟨[], by simp, by simpa using tx⟩, .inr ⟨rfl, last, lastV⟩⟩

/-- A command that writes `RES` alone of them puts its result in the overlay. -/
theorem result (tx : u.tx = s.tx) (last : u.last = s.last) (lastV : u.lastV = s.lastV) :
    o.Follows s u { o with res := u.res } :=
  ⟨rfl, rfl, rfl, .inl rfl, ⟨[], by simp, by simpa using tx⟩, .inr ⟨rfl, last, lastV⟩⟩

/-- So does every command but the four that write `RES` and WRITE. -/
theorem of_writes {op : Opcode} (h : Writes s op u)
    (other : op ∉ [.now, .clkchk, .seqchk, .cmap, .write]) : o.Follows s u o := by
  simp only [List.mem_cons, List.not_mem_nil, or_false, not_or] at other
  obtain ⟨now, clkchk, seqchk, cmap, write⟩ := other
  obtain ⟨-, -, -, -, res⟩ := h.clockFlagSlotFrame
  obtain ⟨-, store, -⟩ := h.storeAndPinFrame
  obtain ⟨lastV, last, tx⟩ := store write
  exact .kept (res now clkchk seqchk cmap) tx last lastV

theorem finish {e : Effect} (h : o.Follows s e.after o') : o.Follows s e.finish o' := by
  obtain ⟨-, moved⟩ | ⟨c, -, raised⟩ := finish_cases e
  · rw [moved]
    exact ⟨h.table, h.millis, h.tickPend, h.res, h.tx, h.last⟩
  · rw [raised]
    exact ⟨h.table, h.millis, h.tickPend, h.res, h.tx, h.last⟩

theorem res_eq (h : o.Follows s u o') (own : o.res = s.res) : o'.res = u.res := by
  obtain written | ⟨overlaid, below⟩ := h.res
  · exact written
  · rw [overlaid, below, own]

theorem tx_eq (h : o.Follows s u o') (own : o.tx = s.tx) : o'.tx = u.tx := by
  obtain ⟨new, overlaid, below⟩ := h.tx
  rw [overlaid, below, own]

theorem last_eq (h : o.Follows s u o') (own : o.last = s.last) : o'.last = u.last := by
  obtain written | ⟨overlaid, below, -⟩ := h.last
  · exact written
  · rw [overlaid, below, own]

end Overlay.Follows

/-! ### Sequences that agree inside their length (R8, R61) -/

/-- Two sequences of one length with the same slots inside it. -/
def SameSlots (q r : Sequence) : Prop :=
  r.length = q.length ∧ ∀ k : Nat, k < q.length → r.slots.getD k none = q.slots.getD k none

theorem SameSlots.refl (q : Sequence) : SameSlots q q := ⟨rfl, fun _ _ => rfl⟩

theorem SameSlots.refl_table (table : List Sequence) : List.Forall₂ SameSlots table table :=
  List.forall₂_same.2 fun q _ => .refl q

theorem SameSlots.intensityOrZero {q r : Sequence} (same : SameSlots q r) {k : Nat}
    (inside : k < q.length) : intensityOrZero r k = intensityOrZero q k := by
  obtain ⟨-, slots⟩ := same
  rw [Machine.intensityOrZero, Machine.intensityOrZero, seqSlot, seqSlot, slots k inside]

theorem SameSlots.stepMatches {q r : Sequence} (same : SameSlots q r) (cur : Nat) :
    stepMatches r cur = stepMatches q cur := by
  have ⟨length, _⟩ := same
  by_cases inside : cur < q.length
  · simp only [Machine.stepMatches, active, length, same.intensityOrZero inside]
  · simp only [Machine.stepMatches, length, inside, decide_false, Bool.false_and]

theorem mapColor_table (c : Config) (table : List Sequence) (slot : Option Intensity)
    (role : Role) : mapColor { c with table := table } slot role = mapColor c slot role := by
  cases role <;> rfl

/-- A frame reads no slot beyond the length (R192). -/
theorem SameSlots.buildFrame {q r : Sequence} (same : SameSlots q r) (c : Config)
    (table : List Sequence) (cur : Nat) (m : Bool) :
    buildFrame { c with table := table } r cur m = buildFrame c q cur m := by
  obtain ⟨length, slots⟩ := same
  refine List.map_congr_left fun pos _ => ?_
  by_cases inside : pos < q.length
  · rw [ledColor_inside inside, ledColor_inside (by rwa [length]), slots pos inside,
      mapColor_table]
  · rw [ledColor_beyond inside, ledColor_beyond (by rwa [length])]

/-- Tables that agree have active sequences that agree. -/
theorem seq?_on {o : Overlay} {s : State} {q : Sequence}
    (tables : List.Forall₂ SameSlots s.cfg.table o.table) (h : s.seq? = some q) :
    ∃ r, (o.on s).seq? = some r ∧ SameSlots q r := by
  obtain ⟨hlt, rfl⟩ := List.getElem?_eq_some_iff.1 h
  have hlt' : s.seqPtr < o.table.length := tables.length_eq ▸ hlt
  exact ⟨_, List.getElem?_eq_getElem hlt', tables.get hlt hlt'⟩

/-! ### Each rule over an overlay -/

theorem ok_writes_congr {s u : State} (h : s = u) :
    (.ok (.writes s) : Except Fault Effect) = .ok (.writes u) :=
  congrArg (fun v => Except.ok (Effect.writes v)) h

section Rules

variable {o : Overlay} {s : State} {q r : Sequence}

theorem render_on (same : SameSlots q r) :
    { o.on s with
      fb := buildFrame (o.on s).cfg r s.stepReg.toNat (stepMatches r s.stepReg.toNat) } =
    o.on { s with fb := buildFrame s.cfg q s.stepReg.toNat (stepMatches q s.stepReg.toNat) } := by
  rw [same.stepMatches, ← same.buildFrame s.cfg o.table]
  rfl

theorem renderx_on (same : SameSlots q r) (cur : Nat) (m : Bool) :
    { o.on s with fb := buildFrame (o.on s).cfg r cur m } =
      o.on { s with fb := buildFrame s.cfg q cur m } := by
  rw [← same.buildFrame s.cfg o.table]
  rfl

theorem seqchkRule_on (length : s.cfg.table.length = o.table.length) :
    seqchkRule (o.on s) = { o with res := (seqchkRule s).res }.on (seqchkRule s) := by
  by_cases release : s.presetPrev = .low ∧ s.presetInLevel = .high
  · have length' : (o.on s).cfg.table.length = s.cfg.table.length := length.symm
    rw [seqchkRule_release release, seqchkRule_release (s := o.on s) release, length']
    rfl
  · rw [seqchkRule_keep release, seqchkRule_keep (s := o.on s) release]
    rfl

theorem pollRule_on (time : o.millis = s.millis) : pollRule (o.on s) = o.on (pollRule s) := by
  cases slot : s.task with
  | empty => rw [pollRule_empty slot, pollRule_empty (s := o.on s) slot]
  | pending kind t =>
    have now : (o.on s).millis.toNat = s.millis.toNat := congrArg BitVec.toNat time
    obtain early | due := Nat.lt_or_ge s.millis.toNat t.toNat
    · rw [pollRule_early slot early, pollRule_early (s := o.on s) slot (now ▸ early)]
    · rw [pollRule_due slot due, pollRule_due (s := o.on s) slot (now ▸ due)]
      rfl

theorem clkEdge_on (time : o.millis = s.millis ∨ s.cfg.clkVariant = .external) :
    clkEdge (o.on s) = clkEdge s := by
  cases variant : s.cfg.clkVariant with
  | external =>
    rw [clkEdge_external variant, clkEdge_external (s := o.on s) variant]
    rfl
  | internal =>
    have now : o.millis = s.millis := time.resolve_right (by simp [variant])
    rw [clkEdge_internal variant, clkEdge_internal (s := o.on s) variant, ← now]
    rfl

theorem clkLatched_on (time : o.millis = s.millis ∨ s.cfg.clkVariant = .external) (e : Edge) :
    clkLatched (o.on s) e = o.on (clkLatched s e) := by
  cases variant : s.cfg.clkVariant with
  | external =>
    by_cases he : e = .unchanged
    · rw [he, clkLatched_external_unchanged variant,
        clkLatched_external_unchanged (s := o.on s) variant]
      rfl
    · rw [clkLatched_external variant he, clkLatched_external (s := o.on s) variant he]
      rfl
  | internal =>
    by_cases he : e = .rise
    · have now : o.millis = s.millis := time.resolve_right (by simp [variant])
      rw [he, clkLatched_internal_rise variant, clkLatched_internal_rise (s := o.on s) variant,
        ← now]
      rfl
    · rw [clkLatched_internal variant he, clkLatched_internal (s := o.on s) variant he]

theorem clkchkRule_on (time : o.millis = s.millis ∨ s.cfg.clkVariant = .external)
    (same : SameSlots q r) :
    clkchkRule r (o.on s) =
      { o with res := (clkchkRule q s).res }.on (clkchkRule q s) := by
  obtain ⟨length, -⟩ := same
  rw [clkchkRule, clkEdge_on time, clkLatched_on time, length]
  rfl

theorem trigRise_on (time : o.millis = s.millis ∨ s.cfg.policy ≠ .pulse)
    (same : SameSlots q r) : trigRise r (o.on s) = o.onEffect (trigRise q s) := by
  have ⟨length, _⟩ := same
  obtain outside | inside := Nat.lt_or_ge s.stepReg.toNat q.length |>.symm
  · rw [trigRise_outside outside, trigRise_outside (s := o.on s) (length ▸ outside)]
    rfl
  · have inside' : (o.on s).stepReg.toNat < r.length := length ▸ inside
    have level : intensityOrZero r (o.on s).stepReg.toNat =
      intensityOrZero q s.stepReg.toNat := same.intensityOrZero inside
    by_cases pulse : s.cfg.policy = .pulse
    · have now : (o.on s).millis.toNat = s.millis.toNat :=
        congrArg BitVec.toNat (time.resolve_right (not_not_intro pulse))
      obtain fits | late := Nat.lt_or_ge (s.millis.toNat + s.cfg.delayTime) (2 ^ 32)
      · rw [trigRise_pulse inside pulse fits,
          trigRise_pulse (s := o.on s) inside' pulse (now ▸ fits), level, now]
        rfl
      · rw [trigRise_overflow inside pulse late,
          trigRise_overflow (s := o.on s) inside' pulse (now ▸ late)]
        rfl
    · rw [trigRise_of_not_pulse inside pulse, trigRise_of_not_pulse (s := o.on s) inside' pulse,
        level]
      rfl

theorem trigFall_on : trigFall (o.on s) = o.on (trigFall s) := by
  by_cases follow : s.cfg.policy = .follow
  · rw [trigFall_follow follow, trigFall_follow (s := o.on s) follow]
    rfl
  · rw [trigFall_of_not_follow follow, trigFall_of_not_follow (s := o.on s) follow]

theorem trigRule_on {e : Effect} (tables : List.Forall₂ SameSlots s.cfg.table o.table)
    (time : o.millis = s.millis ∨ s.cfg.policy ≠ .pulse) (h : trigRule s = .ok e) :
    trigRule (o.on s) = .ok (o.onEffect e) := by
  obtain ⟨rise, q, hseq, rfl⟩ | ⟨fall, rfl⟩ | ⟨unchanged, rfl⟩ := trigRule_cases h
  · obtain ⟨r, hseq', same⟩ := seq?_on tables hseq
    have edge : (o.on s).edge = .rise := rise
    rw [trigRule, edge, ← trigRise_on time same]
    exact withSeq_some hseq' _
  · have edge : (o.on s).edge = .fall := fall
    rw [trigRule, edge, trigFall_on]
    rfl
  · have edge : (o.on s).edge = .unchanged := unchanged
    rw [trigRule, edge]
    rfl

theorem stepoutRule_on (same : SameSlots q r) :
    stepoutRule r (o.on s) = o.onEffect (stepoutRule q s) := by
  have ⟨length, _⟩ := same
  obtain outside | inside := Nat.lt_or_ge s.stepReg.toNat q.length |>.symm
  · rw [stepoutRule_faults (.inl outside),
      stepoutRule_faults (s := o.on s) (.inl (length ▸ outside))]
    rfl
  · have value : intensityOrZero r (o.on s).stepReg.toNat =
      intensityOrZero q s.stepReg.toNat := same.intensityOrZero inside
    by_cases gate : intensityOrZero q s.stepReg.toNat = 0 ∨
        s.stepReg.toNat < s.cfg.gateCount
    · rw [stepoutRule_drives inside gate,
        stepoutRule_drives (s := o.on s) (length ▸ inside) (by rw [value]; exact gate), value]
      rfl
    · have noGate : 0 < intensityOrZero q s.stepReg.toNat ∧
          s.cfg.gateCount ≤ s.stepReg.toNat := by omega
      rw [stepoutRule_faults (.inr noGate),
        stepoutRule_faults (s := o.on s) (.inr (by rw [value]; exact noGate))]
      rfl

/-- While `LAST_V` is 0, and in any case with the same `LAST`, the diffing engine answers the same.
-/
theorem frameSent_on (last : o.last = s.last ∨ s.lastV = false) :
    (o.on s).frameSent ↔ s.frameSent := by
  obtain own | invalid := last
  · show s.lastV = true ∧ s.fb = o.last ↔ s.lastV = true ∧ s.fb = s.last
    rw [own]
  · exact iff_of_false (fun sent => Bool.false_ne_true (invalid.symm.trans sent.1))
      (fun sent => Bool.false_ne_true (invalid.symm.trans sent.1))

theorem writeRule_on (last : o.last = s.last ∨ s.lastV = false) :
    ∃ o', writeRule (o.on s) = o'.onEffect (writeRule s) ∧ o.Follows s (writeRule s).after o' := by
  have decision := frameSent_on last
  obtain ⟨sent, rule⟩ | ⟨changed, ok, rule⟩ | ⟨changed, fail, rule⟩ := writeRule_cases s
  · rw [rule, writeRule_unchanged (decision.2 sent)]
    exact ⟨o, rfl, .kept rfl rfl rfl rfl⟩
  · rw [rule, writeRule_transmits (s := o.on s) (mt decision.1 changed) ok]
    exact ⟨{ o with tx := o.tx ++ [serialize s.cfg s.fb], last := s.fb }, rfl,
      rfl, rfl, rfl, .inr ⟨rfl, rfl⟩, ⟨_, rfl, rfl⟩, .inl rfl⟩
  · rw [rule, writeRule_fails (s := o.on s) (mt decision.1 changed) fail]
    exact ⟨o, rfl, .kept rfl rfl rfl rfl⟩

end Rules

/-! ### Every command over an overlay -/

/-- The commands that read no time: all but NOW, POLL, CLKCHK of the Internal variant and TRIG under
Pulse (R71). -/
structure Timeless (i : Instr) (s : State) : Prop where
  now : i.opcode ≠ .now
  poll : i.opcode ≠ .poll
  clkchk : i.opcode = .clkchk → s.cfg.clkVariant = .external
  trig : i.opcode = .trig → s.cfg.policy ≠ .pulse

/-- The command `i` in `s` reads none of the values in which the overlay differs from `s`. -/
structure Overlay.Unread (o : Overlay) (i : Instr) (s : State) : Prop where
  table : List.Forall₂ SameSlots s.cfg.table o.table
  time : o.millis = s.millis ∨ Timeless i s
  last : o.last = s.last ∨ s.lastV = false

theorem ruleOf_on {o : Overlay} {i : Instr} {s : State} {e : Effect} (unread : o.Unread i s)
    (h : ruleOf i s = .ok e) :
    ∃ o', ruleOf i (o.on s) = .ok (o'.onEffect e) ∧ o.Follows s e.after o' := by
  obtain ⟨tables, time, last⟩ := unread
  cases i with
  | now g =>
    cases h
    have now : o.millis = s.millis := time.resolve_right fun timeless => timeless.now rfl
    exact ⟨{ o with res := s.millis }, by rw [ruleOf, ← now]; rfl, .result rfl rfl rfl⟩
  | poll g =>
    cases h
    have now : o.millis = s.millis := time.resolve_right fun timeless => timeless.poll rfl
    exact ⟨o, ok_writes_congr (pollRule_on now),
      .of_writes (pollRule_writes s) (by decide)⟩
  | clkchk g =>
    obtain ⟨q, hseq, rfl⟩ := withSeq_ok h
    obtain ⟨r, hseq', same⟩ := seq?_on tables hseq
    have rule := clkchkRule_on (time.imp_right fun timeless => timeless.clkchk rfl) same
    obtain ⟨-, store, -⟩ := (clkchkRule_writes q s).storeAndPinFrame
    obtain ⟨lastV, last, tx⟩ := store (by decide)
    exact ⟨_, (withSeq_some hseq' _).trans (ok_writes_congr rule), .result tx last lastV⟩
  | trig g =>
    exact ⟨o, trigRule_on tables (time.imp_right fun timeless => timeless.trig rfl) h,
      .of_writes (trigRule_writes h) (by decide)⟩
  | write g =>
    cases h
    obtain ⟨o', rule, follows⟩ := writeRule_on last
    exact ⟨o', congrArg Except.ok rule, follows⟩
  | render g =>
    obtain ⟨q, hseq, rfl⟩ := withSeq_ok h
    obtain ⟨r, hseq', same⟩ := seq?_on tables hseq
    exact ⟨o, (withSeq_some hseq' _).trans (ok_writes_congr (render_on same)),
      .kept rfl rfl rfl rfl⟩
  | renderx g cur m =>
    obtain ⟨q, hseq, rfl⟩ := withSeq_ok h
    obtain ⟨r, hseq', same⟩ := seq?_on tables hseq
    exact ⟨o, (withSeq_some hseq' _).trans (ok_writes_congr (renderx_on same _ m)),
      .kept rfl rfl rfl rfl⟩
  | stepout g =>
    obtain ⟨q, hseq, rfl⟩ := withSeq_ok h
    obtain ⟨r, hseq', same⟩ := seq?_on tables hseq
    exact ⟨o, (withSeq_some hseq' _).trans (congrArg Except.ok (stepoutRule_on same)),
      .of_writes (stepoutRule_writes q s) (by decide)⟩
  | seqchk g =>
    cases h
    exact ⟨_, ok_writes_congr (seqchkRule_on tables.length_eq),
      .result rfl rfl rfl⟩
  | cmap g p i role =>
    cases h
    refine ⟨{ o with res := resAfterCmap (mapColor s.cfg (cmapSlot p i) role) }, ?_,
      .result rfl rfl rfl⟩
    rw [ruleOf, ← mapColor_table s.cfg o.table]
    rfl
  | _ => cases h; exact ⟨o, rfl, .kept rfl rfl rfl rfl⟩

/-- Every command makes the same step of a state and of an overlay of it that it does not read. -/
theorem exec_on {o : Overlay} {i : Instr} {s t : State} (unread : o.Unread i s)
    (h : exec i s = .next t) : ∃ o', exec i (o.on s) = .next (o'.on t) ∧ o.Follows s t o' := by
  have guard : guardHolds i.guard (o.on s) = guardHolds i.guard s := by cases i.guard <;> rfl
  obtain ⟨skipped, rfl⟩ | ⟨holds, e, rule, rfl⟩ := exec_cases h
  · exact ⟨o, exec_of_guard_false (guard.trans skipped), .kept rfl rfl rfl rfl⟩
  · obtain ⟨o', rule', follows⟩ := ruleOf_on unread rule
    refine ⟨o', ?_, follows.finish⟩
    rw [exec_of_rule (guard.trans holds) rule', finish_onEffect]

/-! ### The claims about what is not read -/

/-- After a command the overlay stands on the timer and the table that the command left (R75,
R114). -/
theorem Overlay.Follows.timer_eq {i : Instr} {o o' : Overlay} {s t : State}
    (follows : o.Follows s t o') (h : exec i s = .next t) (table : o.table = s.cfg.table)
    (millis : o.millis = s.millis) (tickPend : o.tickPend = s.tickPend) :
    o'.table = t.cfg.table ∧ o'.millis = t.millis ∧ o'.tickPend = t.tickPend := by
  obtain ⟨sameMillis, samePend, sameCfg⟩ := exec_sameTimerAndConfig h
  rw [follows.table, follows.millis, follows.tickPend, sameMillis, samePend, sameCfg]
  exact ⟨table, millis, tickPend⟩

/-- Settles O54: an overlay of `RES` and `TX` alone. -/
theorem resultAndHistoryAreNeverRead : Obligations.ResultAndHistoryAreNeverRead := by
  unfold Obligations.ResultAndHistoryAreNeverRead
  intro i s t r x h
  obtain ⟨o', ran, follows⟩ := exec_on (o := { s.overlay with res := r, tx := x })
    ⟨SameSlots.refl_table _, .inl rfl, .inl rfl⟩ h
  obtain ⟨table, millis, tickPend⟩ := follows.timer_eq h rfl rfl rfl
  refine ⟨_, ran, ?_⟩
  rw [Overlay.on, table, millis, tickPend, follows.last_eq rfl]

/-- Settles O55: an overlay of `LAST` alone, which no command reads while `LAST_V` is 0; a
transmission writes the same `LAST` in both states. -/
theorem lastIsNotReadWhileInvalid : Obligations.LastIsNotReadWhileInvalid := by
  unfold Obligations.LastIsNotReadWhileInvalid
  intro i s t f invalid h
  obtain ⟨o', ran, follows⟩ := exec_on (o := { s.overlay with last := f })
    ⟨SameSlots.refl_table _, .inl rfl, .inr invalid⟩ h
  obtain ⟨table, millis, tickPend⟩ := follows.timer_eq h rfl rfl rfl
  have overlaid : o'.on t = { t with last := o'.last } := by
    rw [Overlay.on, table, millis, tickPend, follows.res_eq rfl, follows.tx_eq rfl]
  refine ⟨_, ran, by rw [overlaid], fun valid => ?_⟩
  obtain written | ⟨-, -, kept⟩ := follows.last
  · rw [overlaid, written]
  · exact absurd (kept.symm.trans valid) (by simp [invalid])

/-- Settles O56: an overlay of the table alone. -/
theorem slotsBeyondLengthAreIgnored : Obligations.SlotsBeyondLengthAreIgnored := by
  unfold Obligations.SlotsBeyondLengthAreIgnored
  intro i s t tab tables h
  obtain ⟨o', ran, follows⟩ := exec_on (o := { s.overlay with table := tab })
    ⟨tables, .inl rfl, .inl rfl⟩ h
  obtain ⟨millis, tickPend, -⟩ := exec_sameTimerAndConfig h
  refine ran.trans ?_
  rw [Overlay.on, follows.table, follows.millis, follows.tickPend, follows.res_eq rfl,
    follows.tx_eq rfl, follows.last_eq rfl, millis, tickPend]
  rfl

/-- Settles O57: an overlay of `MILLIS` and `TICK_PEND` alone, which a timeless command does not
read and which the TICK before it puts on the state. -/
theorem tickCommutesWithTimelessCommands : Obligations.TickCommutesWithTimelessCommands := by
  unfold Obligations.TickCommutesWithTimelessCommands
  intro i s t running hlow now poll clkchk trig h
  obtain ⟨millis, -, cfg⟩ := exec_sameTimerAndConfig h
  refine ⟨?before, fun running' => ?after⟩
  case before =>
    obtain ⟨o', ran, follows⟩ := exec_on
      (o := { s.overlay with millis := s.millis + 1, tickPend := false })
      ⟨SameSlots.refl_table _, .inr ⟨now, poll, clkchk, trig⟩, .inl rfl⟩ h
    rw [tickEvent_of_running running, tickRunning_below hlow, ← millis_add_one]
    refine ran.trans ?_
    have table : o'.table = t.cfg.table := by
      rw [follows.table, cfg]
      rfl
    rw [Overlay.on, table, follows.millis, follows.tickPend, follows.res_eq rfl,
      follows.tx_eq rfl, follows.last_eq rfl]
  case after =>
    rw [tickEvent_of_running running', tickRunning_below (millis ▸ hlow), ← millis_add_one, millis]

end Sys2Proof.Machine
